-- ==== Sys2Proof/Word.lean ====
section
/-! DEFINITION. The words of the block: bytes (00_scope R12) and the 32-bit words of the register window (10_state R60). -/

namespace Sys2Proof

/-- A byte, bit 0 least significant (00_scope R12). -/
abbrev Byte := BitVec 8

/-- A word of the host register window (10_state R60), a checksum or a 32-bit count (00_scope R18). -/
abbrev Word := BitVec 32

end Sys2Proof
end

