-- ==== Sys2Proof/Config.lean ====
section
/-! DEFINITION. What this hardware fixes (00_scope R10) and the parameters whose value the spec leaves to the implementation. -/

namespace Sys2Proof

/-- `WINDOW_CAPACITY` (00_scope R10): bytes of physical window storage. -/
abbrev Config.windowCapacity : Nat := 32768

/-- `MAXDIST_RESET` (00_scope R10). -/
abbrev Config.maxDistReset : Nat := 32768

/-- `MAX_CODE_LEN` (00_scope R10). -/
abbrev Config.maxCodeLen : Nat := 15

/-- `LITLEN_SYMBOLS` (00_scope R10). -/
abbrev Config.litLenSymbols : Nat := 286

/-- `DIST_SYMBOLS` (00_scope R10). -/
abbrev Config.distSymbols : Nat := 30

/-- `CL_SYMBOLS` (00_scope R10). -/
abbrev Config.clSymbols : Nat := 19

/-- `MAX_READ_BITS` (00_scope R10). -/
abbrev Config.maxReadBits : Nat := 24

/-- `DIST30_31_MODE` (00_scope R10): what decoding distance symbol 30 or 31 raises (45_inflate_symbols R371). -/
inductive DistMode where
  /-- This hardware's value: MalformedHuffmanStream. -/
  | reject
  /-- The one alternative value: IllegalDistance. -/
  | illegalDistance
  deriving DecidableEq, Repr

/-- Which pair of functions `CRC32_FN` and `ADLER32_FN` are (00_scope R10, R11; 92 D31). -/
inductive ChecksumParam where
  /-- The default: the standard CRC-32 and Adler-32. -/
  | standard
  /-- Any other pair, of which nothing is known. -/
  | other
  deriving DecidableEq, Repr

/-- `CRC32_FN` where it is not the default: a free function (93 I10), log 15. -/
opaque Config.otherCrc32 : List Byte → Word

/-- `ADLER32_FN` where it is not the default: a free function (93 I10), log 15. -/
opaque Config.otherAdler32 : List Byte → Word

end Sys2Proof
end

