-- ==== Sys2Proof/Syntax.lean ====
section
/-! DEFINITION. The syntax of everything the block runs: one constructor per row of spec/opcode_table.json, and the words that stand for them. -/

namespace Sys2Proof

/-- The formats of the opcode table (30_encoding R110 to R123). Each has a code space of its own. -/
inductive Format where
  | blkHdr | storedHdr | storedByte | dynHdr | clSym | litlenSym | distSym
  | zlibHdr | gzipHdr | zlibTrl | gzipTrl | hostCmd | microOp
  deriving DecidableEq, Repr

/-- One instruction word: its format, its bits numbered as the opcode table numbers them (30_encoding R110),
and, for a micro-operation, the operands it is called with (it has a code and no operand encoding, R123). -/
structure InstrWord where
  fmt  : Format
  bits : Nat
  args : List Nat
  deriving DecidableEq, Repr

/-- The instructions. A fixed field of an element is an argument here, and what follows it in the stream (extra bits,
the distance after a length) is read by its meaning (log 3). -/
inductive Instr where
  /-- BLOCK_STORED, format blk_hdr (R274). -/
  | blockStored (bfinal : Bool)
  /-- BLOCK_FIXED, format blk_hdr (R278). -/
  | blockFixed (bfinal : Bool)
  /-- BLOCK_DYNAMIC, format blk_hdr (R280). -/
  | blockDynamic (bfinal : Bool)
  /-- BLOCK_RESERVED, format blk_hdr (R273). -/
  | blockReserved (bfinal : Bool)
  /-- STORED_HDR, format stored_hdr (R274). -/
  | storedHdr (len nlen : BitVec 16)
  /-- STORED_BYTE, format stored_byte (R275). -/
  | storedByte (b : Byte)
  /-- DYN_HDR, format dyn_hdr (R280). -/
  | dynHdr (hlit hdist : BitVec 5) (hclen : BitVec 4)
  /-- CL_LEN, format cl_sym (R285). -/
  | clLen (s : BitVec 4)
  /-- CL_REP16, format cl_sym (R286). -/
  | clRep16
  /-- CL_REP17, format cl_sym (R287). -/
  | clRep17
  /-- CL_REP18, format cl_sym (R288). -/
  | clRep18
  /-- LIT, format litlen_sym (R302). -/
  | lit (s : Byte)
  /-- EOB, format litlen_sym (R303). -/
  | eob
  /-- LEN_257, format litlen_sym (R310). -/
  | len257
  /-- LEN_258, format litlen_sym (R311). -/
  | len258
  /-- LEN_259, format litlen_sym (R312). -/
  | len259
  /-- LEN_260, format litlen_sym (R313). -/
  | len260
  /-- LEN_261, format litlen_sym (R314). -/
  | len261
  /-- LEN_262, format litlen_sym (R315). -/
  | len262
  /-- LEN_263, format litlen_sym (R316). -/
  | len263
  /-- LEN_264, format litlen_sym (R317). -/
  | len264
  /-- LEN_265, format litlen_sym (R318). -/
  | len265
  /-- LEN_266, format litlen_sym (R319). -/
  | len266
  /-- LEN_267, format litlen_sym (R320). -/
  | len267
  /-- LEN_268, format litlen_sym (R321). -/
  | len268
  /-- LEN_269, format litlen_sym (R322). -/
  | len269
  /-- LEN_270, format litlen_sym (R323). -/
  | len270
  /-- LEN_271, format litlen_sym (R324). -/
  | len271
  /-- LEN_272, format litlen_sym (R325). -/
  | len272
  /-- LEN_273, format litlen_sym (R326). -/
  | len273
  /-- LEN_274, format litlen_sym (R327). -/
  | len274
  /-- LEN_275, format litlen_sym (R328). -/
  | len275
  /-- LEN_276, format litlen_sym (R329). -/
  | len276
  /-- LEN_277, format litlen_sym (R330). -/
  | len277
  /-- LEN_278, format litlen_sym (R331). -/
  | len278
  /-- LEN_279, format litlen_sym (R332). -/
  | len279
  /-- LEN_280, format litlen_sym (R333). -/
  | len280
  /-- LEN_281, format litlen_sym (R334). -/
  | len281
  /-- LEN_282, format litlen_sym (R335). -/
  | len282
  /-- LEN_283, format litlen_sym (R336). -/
  | len283
  /-- LEN_284, format litlen_sym (R337). -/
  | len284
  /-- LEN_285, format litlen_sym (R338). -/
  | len285
  /-- LITLEN_INVALID, format litlen_sym (R370). -/
  | litlenInvalid (low : BitVec 1)
  /-- DIST_0, format dist_sym (R340). -/
  | dist0
  /-- DIST_1, format dist_sym (R341). -/
  | dist1
  /-- DIST_2, format dist_sym (R342). -/
  | dist2
  /-- DIST_3, format dist_sym (R343). -/
  | dist3
  /-- DIST_4, format dist_sym (R344). -/
  | dist4
  /-- DIST_5, format dist_sym (R345). -/
  | dist5
  /-- DIST_6, format dist_sym (R346). -/
  | dist6
  /-- DIST_7, format dist_sym (R347). -/
  | dist7
  /-- DIST_8, format dist_sym (R348). -/
  | dist8
  /-- DIST_9, format dist_sym (R349). -/
  | dist9
  /-- DIST_10, format dist_sym (R350). -/
  | dist10
  /-- DIST_11, format dist_sym (R351). -/
  | dist11
  /-- DIST_12, format dist_sym (R352). -/
  | dist12
  /-- DIST_13, format dist_sym (R353). -/
  | dist13
  /-- DIST_14, format dist_sym (R354). -/
  | dist14
  /-- DIST_15, format dist_sym (R355). -/
  | dist15
  /-- DIST_16, format dist_sym (R356). -/
  | dist16
  /-- DIST_17, format dist_sym (R357). -/
  | dist17
  /-- DIST_18, format dist_sym (R358). -/
  | dist18
  /-- DIST_19, format dist_sym (R359). -/
  | dist19
  /-- DIST_20, format dist_sym (R360). -/
  | dist20
  /-- DIST_21, format dist_sym (R361). -/
  | dist21
  /-- DIST_22, format dist_sym (R362). -/
  | dist22
  /-- DIST_23, format dist_sym (R363). -/
  | dist23
  /-- DIST_24, format dist_sym (R364). -/
  | dist24
  /-- DIST_25, format dist_sym (R365). -/
  | dist25
  /-- DIST_26, format dist_sym (R366). -/
  | dist26
  /-- DIST_27, format dist_sym (R367). -/
  | dist27
  /-- DIST_28, format dist_sym (R368). -/
  | dist28
  /-- DIST_29, format dist_sym (R369). -/
  | dist29
  /-- DIST_INVALID, format dist_sym (R371). -/
  | distInvalid (low : BitVec 1)
  /-- ZLIB_HDR, format zlib_hdr (R402). -/
  | zlibHdr (h : BitVec 16)
  /-- GZIP_HDR, format gzip_hdr (R410). -/
  | gzipHdr (start : BitVec 32)
  /-- ZLIB_TRL, format zlib_trl (R421). -/
  | zlibTrl (adler : Word)
  /-- GZIP_TRL, format gzip_trl (R422). -/
  | gzipTrl (crc isize : Word)
  /-- NOP, format host_cmd (R444). -/
  | nop (arg : BitVec 24)
  /-- START, format host_cmd (R445). -/
  | start (arg : BitVec 24)
  /-- READ, format host_cmd (R446). -/
  | read (arg : BitVec 24)
  /-- ENTER_TRAILING_BITS, format host_cmd (R447). -/
  | enterTrailingBits (arg : BitVec 24)
  /-- ENTER_TRAILING_BYTES, format host_cmd (R448). -/
  | enterTrailingBytes (arg : BitVec 24)
  /-- READ_TRAIL_BIT, format host_cmd (R449). -/
  | readTrailBit (arg : BitVec 24)
  /-- READ_TRAIL_BYTE, format host_cmd (R450). -/
  | readTrailByte (arg : BitVec 24)
  /-- GET_BIT, format host_cmd (R451). -/
  | getBit (arg : BitVec 24)
  /-- RELEASE, format host_cmd (R452). -/
  | release (arg : BitVec 24)
  /-- CMD_RESERVED_09_09, format host_cmd (R442). -/
  | cmdReserved0909 (arg : BitVec 24)
  /-- CMD_RESERVED_0A_0B, format host_cmd (R442). -/
  | cmdReserved0A0B (low : BitVec 1) (arg : BitVec 24)
  /-- CMD_RESERVED_0C_0F, format host_cmd (R442). -/
  | cmdReserved0C0F (low : BitVec 2) (arg : BitVec 24)
  /-- CMD_RESERVED_10_1F, format host_cmd (R442). -/
  | cmdReserved101F (low : BitVec 4) (arg : BitVec 24)
  /-- CMD_RESERVED_20_3F, format host_cmd (R442). -/
  | cmdReserved203F (low : BitVec 5) (arg : BitVec 24)
  /-- CMD_RESERVED_40_7F, format host_cmd (R442). -/
  | cmdReserved407F (low : BitVec 6) (arg : BitVec 24)
  /-- CMD_RESERVED_80_FF, format host_cmd (R442). -/
  | cmdReserved80FF (low : BitVec 7) (arg : BitVec 24)
  /-- BC_READ_BIT, format micro_op (R161). -/
  | bcReadBit
  /-- BC_READ_BITS, format micro_op (R162). -/
  | bcReadBits (n : Nat)
  /-- BC_ALIGN, format micro_op (R163). -/
  | bcAlign
  /-- BC_READ_ALIGNED_BYTE, format micro_op (R164). -/
  | bcReadAlignedByte
  /-- BC_GET_BIT, format micro_op (R168). -/
  | bcGetBit (i : Nat)
  /-- HUF_BUILD, format micro_op (R180). -/
  | hufBuild (lengths : List Nat)
  /-- HUF_DECODE, format micro_op (R210). -/
  | hufDecode (lengths : List Nat)
  /-- WIN_CREATE, format micro_op (R231). -/
  | winCreate (m : Nat)
  /-- WIN_PUT, format micro_op (R233). -/
  | winPut (b : Byte)
  /-- WIN_PUT_BULK, format micro_op (R238). -/
  | winPutBulk (maxLen : Nat) (bytes : List Byte)
  /-- WIN_COPY, format micro_op (R237). -/
  | winCopy (d : Nat)
  /-- WIN_COPY_BULK, format micro_op (R240). -/
  | winCopyBulk (d maxLen : Nat)
  /-- WIN_AVAILABLE, format micro_op (R241). -/
  | winAvailable
  /-- WIN_CLEAR, format micro_op (R232). -/
  | winClear
  /-- WIN_RELEASE, format micro_op (R243). -/
  | winRelease
  /-- WIN_SET_CAP, format micro_op (R242). -/
  | winSetCap (m : Nat)
  deriving DecidableEq, Repr

end Sys2Proof
end

