-- ==== Sys2Proof/WellFormed.lean ====
section
/-! DEFINITION. Which instructions the spec gives a meaning: the operand ranges that the types of the fields do not already fix. -/

namespace Sys2Proof

/-- The operand conditions of the spec: `ReadBits(n)` has n ≤ 24 (40_bit_cursor R162, R167) and `WinCreate(m)` has
1 ≤ m ≤ WINDOW_CAPACITY (43_sliding_window R231). Every other operand is legal at every value its field holds. -/
def WellFormed : Instr → Bool
  | .bcReadBits n => decide (n ≤ Config.maxReadBits)
  | .winCreate m => decide (1 ≤ m) && decide (m ≤ Config.windowCapacity)
  | .blockStored _ | .blockFixed _ | .blockDynamic _ | .blockReserved _ | .storedHdr _ _ | .storedByte _ | .dynHdr _ _ _
  | .clLen _ | .clRep16 | .clRep17 | .clRep18 | .lit _ | .eob | .len257 | .len258 | .len259 | .len260 | .len261 | .len262
  | .len263 | .len264 | .len265 | .len266 | .len267 | .len268 | .len269 | .len270 | .len271 | .len272 | .len273 | .len274
  | .len275 | .len276 | .len277 | .len278 | .len279 | .len280 | .len281 | .len282 | .len283 | .len284 | .len285
  | .litlenInvalid _ | .dist0 | .dist1 | .dist2 | .dist3 | .dist4 | .dist5 | .dist6 | .dist7 | .dist8 | .dist9 | .dist10
  | .dist11 | .dist12 | .dist13 | .dist14 | .dist15 | .dist16 | .dist17 | .dist18 | .dist19 | .dist20 | .dist21 | .dist22
  | .dist23 | .dist24 | .dist25 | .dist26 | .dist27 | .dist28 | .dist29 | .distInvalid _ | .zlibHdr _ | .gzipHdr _ | .zlibTrl _
  | .gzipTrl _ _ | .nop _ | .start _ | .read _ | .enterTrailingBits _ | .enterTrailingBytes _ | .readTrailBit _
  | .readTrailByte _ | .getBit _ | .release _ | .cmdReserved0909 _ | .cmdReserved0A0B _ _ | .cmdReserved0C0F _ _
  | .cmdReserved101F _ _ | .cmdReserved203F _ _ | .cmdReserved407F _ _ | .cmdReserved80FF _ _ | .bcReadBit | .bcAlign
  | .bcReadAlignedByte | .bcGetBit _ | .hufBuild _ | .hufDecode _ | .winPut _ | .winPutBulk _ _ | .winCopy _ | .winCopyBulk _ _
  | .winAvailable | .winClear | .winRelease | .winSetCap _ => true

end Sys2Proof
end

