-- ==== Sys2Proof/Decode.lean ====
section
/-! DEFINITION. The decoder, total on every word and rejecting by name, and the encoder, both from the encoding tables of 30_encoding.md. -/

namespace Sys2Proof

/-- Why a word is no instruction. -/
inductive DecodeError where
  /-- The bits do not fit the width of the format. -/
  | tooWide
  /-- The symbol is outside the alphabet of the format (cl_sym above 18, litlen_sym above 287). -/
  | noSuchSymbol
  /-- The code names no micro-operation (30_encoding R123). -/
  | noSuchMicroOp
  /-- The operands are not those the micro-operation takes, or an element or a command has some. -/
  | wrongOperands
  deriving DecidableEq, Repr

/-- The width of a format in bits (30_encoding R111 to R118, R122, R123). A Huffman symbol counts as its index
(R110): 0..18, 0..287 and 0..31. -/
def Format.width : Format → Nat
  | .blkHdr => 3
  | .storedHdr => 32
  | .storedByte => 8
  | .dynHdr => 14
  | .clSym => 5
  | .litlenSym => 9
  | .distSym => 5
  | .zlibHdr => 16
  | .gzipHdr => 32
  | .zlibTrl => 32
  | .gzipTrl => 64
  | .hostCmd => 32
  | .microOp => 8

/-- The field of `n` bits from bit `lo` up: `v[lo+n-1 : lo]` (00_scope R12). -/
def field (v lo n : Nat) : BitVec n := BitVec.ofNat n (v >>> lo)

/-- The length symbols 257 to 285 in order (30_encoding R114). -/
def lenInstrs : List Instr :=
  [.len257, .len258, .len259, .len260, .len261, .len262, .len263, .len264, .len265, .len266, .len267, .len268, .len269,
   .len270, .len271, .len272, .len273, .len274, .len275, .len276, .len277, .len278, .len279, .len280, .len281, .len282,
   .len283, .len284, .len285]

/-- The distance symbols 0 to 29 in order (30_encoding R115). -/
def distInstrs : List Instr :=
  [.dist0, .dist1, .dist2, .dist3, .dist4, .dist5, .dist6, .dist7, .dist8, .dist9, .dist10, .dist11, .dist12, .dist13,
   .dist14, .dist15, .dist16, .dist17, .dist18, .dist19, .dist20, .dist21, .dist22, .dist23, .dist24, .dist25, .dist26,
   .dist27, .dist28, .dist29]

/-- `blk_hdr`: BFINAL in bit 0, BTYPE in bits 2:1 (30_encoding R111). -/
def decodeBlkHdr (v : Nat) : Instr :=
  let bfinal := v.testBit 0
  match (field v 1 2).toNat with
  | 0 => .blockStored bfinal
  | 1 => .blockFixed bfinal
  | 2 => .blockDynamic bfinal
  | _ => .blockReserved bfinal

/-- `cl_sym` (30_encoding R116). -/
def decodeClSym (v : Nat) : Except DecodeError Instr :=
  if v < 16 then .ok (.clLen (field v 0 4))
  else if v = 16 then .ok .clRep16
  else if v = 17 then .ok .clRep17
  else if v = 18 then .ok .clRep18
  else .error .noSuchSymbol

/-- `litlen_sym` (30_encoding R114). -/
def decodeLitlenSym (v : Nat) : Except DecodeError Instr :=
  if v < 256 then .ok (.lit (field v 0 8))
  else if v = 256 then .ok .eob
  else if v < 286 then
    match lenInstrs[v - 257]? with
    | some i => .ok i
    | none => .error .noSuchSymbol
  else if v < 288 then .ok (.litlenInvalid (field v 0 1))
  else .error .noSuchSymbol

/-- `dist_sym` (30_encoding R115). -/
def decodeDistSym (v : Nat) : Instr :=
  match distInstrs[v]? with
  | some i => i
  | none => .distInvalid (field v 0 1)

/-- `host_cmd`: CMD in bits 7:0, ARG in bits 31:8 (30_encoding R122). -/
def decodeHostCmd (v : Nat) : Instr :=
  let cmd := v % 256
  let arg := field v 8 24
  match cmd with
  | 0 => .nop arg
  | 1 => .start arg
  | 2 => .read arg
  | 3 => .enterTrailingBits arg
  | 4 => .enterTrailingBytes arg
  | 5 => .readTrailBit arg
  | 6 => .readTrailByte arg
  | 7 => .getBit arg
  | 8 => .release arg
  | 9 => .cmdReserved0909 arg
  | _ =>
    if cmd < 0x0C then .cmdReserved0A0B (field cmd 0 1) arg
    else if cmd < 0x10 then .cmdReserved0C0F (field cmd 0 2) arg
    else if cmd < 0x20 then .cmdReserved101F (field cmd 0 4) arg
    else if cmd < 0x40 then .cmdReserved203F (field cmd 0 5) arg
    else if cmd < 0x80 then .cmdReserved407F (field cmd 0 6) arg
    else .cmdReserved80FF (field cmd 0 7) arg

/-- Operands that are bytes: each below 256. -/
def bytesOf : List Nat → Option (List Byte)
  | [] => some []
  | n :: ns =>
    if n < 256 then
      match bytesOf ns with
      | some bs => some (BitVec.ofNat 8 n :: bs)
      | none => none
    else none

/-- A micro-operation: its code (30_encoding R123) and the operands it is called with. -/
def decodeMicroOp (v : Nat) (args : List Nat) : Except DecodeError Instr :=
  match v, args with
  | 0x10, [] => .ok .bcReadBit
  | 0x11, [n] => .ok (.bcReadBits n)
  | 0x12, [] => .ok .bcAlign
  | 0x13, [] => .ok .bcReadAlignedByte
  | 0x14, [i] => .ok (.bcGetBit i)
  | 0x20, lengths => .ok (.hufBuild lengths)
  | 0x21, lengths => .ok (.hufDecode lengths)
  | 0x30, [m] => .ok (.winCreate m)
  | 0x31, [b] => if b < 256 then .ok (.winPut (BitVec.ofNat 8 b)) else .error .wrongOperands
  | 0x32, maxLen :: bytes =>
    match bytesOf bytes with
    | some bs => .ok (.winPutBulk maxLen bs)
    | none => .error .wrongOperands
  | 0x33, [d] => .ok (.winCopy d)
  | 0x34, [d, maxLen] => .ok (.winCopyBulk d maxLen)
  | 0x35, [] => .ok .winAvailable
  | 0x36, [] => .ok .winClear
  | 0x37, [] => .ok .winRelease
  | 0x38, [m] => .ok (.winSetCap m)
  | 0x10, _ | 0x11, _ | 0x12, _ | 0x13, _ | 0x14, _ => .error .wrongOperands
  | 0x30, _ | 0x31, _ | 0x32, _ | 0x33, _ | 0x34, _ => .error .wrongOperands
  | 0x35, _ | 0x36, _ | 0x37, _ | 0x38, _ => .error .wrongOperands
  | _, _ => .error .noSuchMicroOp

/-- The element or command of a format that is no micro-operation; `v` fits the format's width. -/
def decodeField (f : Format) (v : Nat) : Except DecodeError Instr :=
  match f with
  | .blkHdr => .ok (decodeBlkHdr v)
  | .storedHdr => .ok (.storedHdr (field v 0 16) (field v 16 16))
  | .storedByte => .ok (.storedByte (field v 0 8))
  | .dynHdr => .ok (.dynHdr (field v 0 5) (field v 5 5) (field v 10 4))
  | .clSym => decodeClSym v
  | .litlenSym => decodeLitlenSym v
  | .distSym => .ok (decodeDistSym v)
  | .zlibHdr => .ok (.zlibHdr (field v 0 16))
  | .gzipHdr => .ok (.gzipHdr (field v 0 32))
  | .zlibTrl => .ok (.zlibTrl (field v 0 32))
  | .gzipTrl => .ok (.gzipTrl (field v 0 32) (field v 32 32))
  | .hostCmd => .ok (decodeHostCmd v)
  | .microOp => .error .noSuchMicroOp

/-- The decoder: an instruction, or the name of what is wrong with the word. -/
def decode (w : InstrWord) : Except DecodeError Instr :=
  if 2 ^ w.fmt.width ≤ w.bits then .error .tooWide
  else if w.fmt = .microOp then decodeMicroOp w.bits w.args
  else if w.args ≠ [] then .error .wrongOperands
  else decodeField w.fmt w.bits

/-- A word of an element or a command: no operands beside its bits. -/
def InstrWord.plain (f : Format) (v : Nat) : InstrWord := ⟨f, v, []⟩

/-- A CTRL word: CMD and ARG (30_encoding R122). -/
def cmdWord (cmd : Nat) (arg : BitVec 24) : InstrWord := .plain .hostCmd (cmd + arg.toNat <<< 8)

/-- A block header word: BFINAL and BTYPE (30_encoding R111). -/
def blkWord (bfinal : Bool) (btype : Nat) : InstrWord := .plain .blkHdr (bfinal.toNat + btype <<< 1)

/-- The encoder: the word of an instruction. -/
def encode : Instr → InstrWord
  | .blockStored bfinal => blkWord bfinal 0
  | .blockFixed bfinal => blkWord bfinal 1
  | .blockDynamic bfinal => blkWord bfinal 2
  | .blockReserved bfinal => blkWord bfinal 3
  | .storedHdr len nlen => .plain .storedHdr (len.toNat + nlen.toNat <<< 16)
  | .storedByte b => .plain .storedByte b.toNat
  | .dynHdr hlit hdist hclen => .plain .dynHdr (hlit.toNat + hdist.toNat <<< 5 + hclen.toNat <<< 10)
  | .clLen s => .plain .clSym s.toNat
  | .clRep16 => .plain .clSym 16
  | .clRep17 => .plain .clSym 17
  | .clRep18 => .plain .clSym 18
  | .lit s => .plain .litlenSym s.toNat
  | .eob => .plain .litlenSym 256
  | .len257 => .plain .litlenSym 257
  | .len258 => .plain .litlenSym 258
  | .len259 => .plain .litlenSym 259
  | .len260 => .plain .litlenSym 260
  | .len261 => .plain .litlenSym 261
  | .len262 => .plain .litlenSym 262
  | .len263 => .plain .litlenSym 263
  | .len264 => .plain .litlenSym 264
  | .len265 => .plain .litlenSym 265
  | .len266 => .plain .litlenSym 266
  | .len267 => .plain .litlenSym 267
  | .len268 => .plain .litlenSym 268
  | .len269 => .plain .litlenSym 269
  | .len270 => .plain .litlenSym 270
  | .len271 => .plain .litlenSym 271
  | .len272 => .plain .litlenSym 272
  | .len273 => .plain .litlenSym 273
  | .len274 => .plain .litlenSym 274
  | .len275 => .plain .litlenSym 275
  | .len276 => .plain .litlenSym 276
  | .len277 => .plain .litlenSym 277
  | .len278 => .plain .litlenSym 278
  | .len279 => .plain .litlenSym 279
  | .len280 => .plain .litlenSym 280
  | .len281 => .plain .litlenSym 281
  | .len282 => .plain .litlenSym 282
  | .len283 => .plain .litlenSym 283
  | .len284 => .plain .litlenSym 284
  | .len285 => .plain .litlenSym 285
  | .litlenInvalid low => .plain .litlenSym (286 + low.toNat)
  | .dist0 => .plain .distSym 0
  | .dist1 => .plain .distSym 1
  | .dist2 => .plain .distSym 2
  | .dist3 => .plain .distSym 3
  | .dist4 => .plain .distSym 4
  | .dist5 => .plain .distSym 5
  | .dist6 => .plain .distSym 6
  | .dist7 => .plain .distSym 7
  | .dist8 => .plain .distSym 8
  | .dist9 => .plain .distSym 9
  | .dist10 => .plain .distSym 10
  | .dist11 => .plain .distSym 11
  | .dist12 => .plain .distSym 12
  | .dist13 => .plain .distSym 13
  | .dist14 => .plain .distSym 14
  | .dist15 => .plain .distSym 15
  | .dist16 => .plain .distSym 16
  | .dist17 => .plain .distSym 17
  | .dist18 => .plain .distSym 18
  | .dist19 => .plain .distSym 19
  | .dist20 => .plain .distSym 20
  | .dist21 => .plain .distSym 21
  | .dist22 => .plain .distSym 22
  | .dist23 => .plain .distSym 23
  | .dist24 => .plain .distSym 24
  | .dist25 => .plain .distSym 25
  | .dist26 => .plain .distSym 26
  | .dist27 => .plain .distSym 27
  | .dist28 => .plain .distSym 28
  | .dist29 => .plain .distSym 29
  | .distInvalid low => .plain .distSym (30 + low.toNat)
  | .zlibHdr h => .plain .zlibHdr h.toNat
  | .gzipHdr start => .plain .gzipHdr start.toNat
  | .zlibTrl adler => .plain .zlibTrl adler.toNat
  | .gzipTrl crc isize => .plain .gzipTrl (crc.toNat + isize.toNat <<< 32)
  | .nop arg => cmdWord 0x00 arg
  | .start arg => cmdWord 0x01 arg
  | .read arg => cmdWord 0x02 arg
  | .enterTrailingBits arg => cmdWord 0x03 arg
  | .enterTrailingBytes arg => cmdWord 0x04 arg
  | .readTrailBit arg => cmdWord 0x05 arg
  | .readTrailByte arg => cmdWord 0x06 arg
  | .getBit arg => cmdWord 0x07 arg
  | .release arg => cmdWord 0x08 arg
  | .cmdReserved0909 arg => cmdWord 0x09 arg
  | .cmdReserved0A0B low arg => cmdWord (0x0A + low.toNat) arg
  | .cmdReserved0C0F low arg => cmdWord (0x0C + low.toNat) arg
  | .cmdReserved101F low arg => cmdWord (0x10 + low.toNat) arg
  | .cmdReserved203F low arg => cmdWord (0x20 + low.toNat) arg
  | .cmdReserved407F low arg => cmdWord (0x40 + low.toNat) arg
  | .cmdReserved80FF low arg => cmdWord (0x80 + low.toNat) arg
  | .bcReadBit => ⟨.microOp, 0x10, []⟩
  | .bcReadBits n => ⟨.microOp, 0x11, [n]⟩
  | .bcAlign => ⟨.microOp, 0x12, []⟩
  | .bcReadAlignedByte => ⟨.microOp, 0x13, []⟩
  | .bcGetBit i => ⟨.microOp, 0x14, [i]⟩
  | .hufBuild lengths => ⟨.microOp, 0x20, lengths⟩
  | .hufDecode lengths => ⟨.microOp, 0x21, lengths⟩
  | .winCreate m => ⟨.microOp, 0x30, [m]⟩
  | .winPut b => ⟨.microOp, 0x31, [b.toNat]⟩
  | .winPutBulk maxLen bytes => ⟨.microOp, 0x32, maxLen :: bytes.map (·.toNat)⟩
  | .winCopy d => ⟨.microOp, 0x33, [d]⟩
  | .winCopyBulk d maxLen => ⟨.microOp, 0x34, [d, maxLen]⟩
  | .winAvailable => ⟨.microOp, 0x35, []⟩
  | .winClear => ⟨.microOp, 0x36, []⟩
  | .winRelease => ⟨.microOp, 0x37, []⟩
  | .winSetCap m => ⟨.microOp, 0x38, [m]⟩

/-- The `n` low bits of `v`, most significant first: a code in read order (30_encoding R110). -/
def codeBits (v : Nat) : Nat → List Bool
  | 0 => []
  | n + 1 => v.testBit n :: codeBits v n

/-- The bit pattern of a literal/length symbol in the fixed code, first bit read at the left (the table of 30_encoding R114). -/
def fixedLitlenBits (sym : Nat) : List Bool :=
  if sym < 144 then codeBits (0x30 + sym) 8
  else if sym < 256 then codeBits (0x190 + (sym - 144)) 9
  else if sym < 280 then codeBits (sym - 256) 7
  else codeBits (0xC0 + (sym - 280)) 8

/-- The bit pattern of a distance symbol in the fixed code (30_encoding R115). -/
def fixedDistBits (sym : Nat) : List Bool := codeBits sym 5

/-- The codes that name a micro-operation (30_encoding R123). -/
def isMicroOp (v : Nat) : Bool :=
  (0x10 ≤ v && v ≤ 0x14) || v == 0x20 || v == 0x21 || (0x30 ≤ v && v ≤ 0x38)

/-- The format a bare table word is taken in. A word and a bit count do not name a format, so of the rows of that many
bytes that the word matches, the one that fixes the most bits is taken (log 4). -/
def tableFormat (nbits w : Nat) : Option Format :=
  match nbits with
  | 8 =>
    if isMicroOp w then some .microOp
    else if w < 0x10 then some .hostCmd
    else if 21 ≤ w && w < 32 then some .distSym
    else some .hostCmd
  | 16 =>
    if w < 288 then some .litlenSym
    else if w &&& 0x8F20 = 0x0800 then some .zlibHdr
    else if w < 2 ^ 14 then some .dynHdr
    else some .zlibHdr
  | 32 => if w &&& 0xE0FFFFFF = 0x00088B1F then some .gzipHdr else some .storedHdr
  | 64 => some .gzipTrl
  | _ => none

/-- The operands of a bare micro-operation code: zeros, and 1 for WIN_CREATE, which no 0 may be given to (43_sliding_window R231). -/
def tableArgs (f : Format) (w : Nat) : List Nat :=
  if f = .microOp then
    match w with
    | 0x11 | 0x14 | 0x31 | 0x32 | 0x33 | 0x38 => [0]
    | 0x30 => [1]
    | 0x34 => [0, 0]
    | _ => []
  else []

/-- The word of an opcode-table row given as a bit count and a number (log 4). -/
def tableWord (nbits w : Nat) : Option InstrWord :=
  match tableFormat nbits w with
  | some f => some ⟨f, w, tableArgs f w⟩
  | none => none

/-- The instruction the decoder reads from a bare table word. -/
def decodeTableWord (nbits w : Nat) : Option Instr :=
  match tableWord nbits w with
  | some iw =>
    match decode iw with
    | .ok i => some i
    | .error _ => none
  | none => none

end Sys2Proof
end

