-- ==== Sys2Proof/Machine/State.lean ====
section
/-! DEFINITION. The state of the block (10_state.md), what a step can stop with, and the state after reset (10_state R74, 70_reset_and_hazards R520). -/

namespace Sys2Proof.Machine

open Sys2Proof

/-- The session phase (10_state R32). -/
inductive Phase where
  | idle | header | body | trailer | done | failed | released
  deriving DecidableEq, Repr

/-- The InflateEngine state (10_state R33). -/
inductive Eng where
  | blockFree | stored | fixedHuffman | dynamicHuffman | lastBlockFree | trailingBits | trailingBytes
  deriving DecidableEq, Repr

/-- The frame of a session (10_state R35). -/
inductive Frame where
  | raw | zlib | gzip
  deriving DecidableEq, Repr

/-- The five stream errors, the block's exceptions (60_exceptions R481). -/
inductive StreamError where
  | unexpectedEndOfStream | malformedBlockType | compressAlgorithmError | malformedHuffmanStream | illegalDistance
  deriving DecidableEq, Repr

/-- Why a host command is rejected (47_host_commands R442). -/
inductive RejectReason where
  | badCmd | badState | badArg
  deriving DecidableEq, Repr

/-- What RESP holds (47_host_commands R441): the six forms of the response word. -/
inductive Resp where
  | none
  | ok
  | data (v : Byte)
  | eod
  | error (code : Nat)
  | reject (r : RejectReason)
  deriving DecidableEq, Repr

/-- One entry of a code table: the symbol, its code length and its code value (41_canonical_huffman R180). -/
structure Code where
  sym : Nat
  len : Nat
  val : Nat
  deriving DecidableEq, Repr

/-- A built table `(codes, maxLen)` (41_canonical_huffman R180). -/
structure CodeTable where
  codes  : List Code
  maxLen : Nat
  deriving DecidableEq, Repr

/-- What a micro-operation run as a step of its own returned to its caller (model's own field, log 7). -/
inductive Ret where
  | none
  | bit (b : Bool)
  | value (v : Nat)
  | byte (b : Byte)
  | table (t : CodeTable)
  | symbol (s : Nat)
  | count (n : Nat)
  | copied (n : Nat) (bytes : List Byte)
  | distance (d : Nat)
  | flag (b : Bool)
  deriving DecidableEq, Repr

/-- What `step` can be asked to do next (model's own, log 1): a host access of `size` bytes at a byte offset of the
register window, making a source available (70_reset_and_hazards R524), reset (R520), or one micro-operation or syntax
element as a step of its own (00_scope R9, log 2). -/
inductive Request where
  | write (off size : Nat) (val : Word)
  | read (off size : Nat)
  | supply (bytes : List Byte)
  | reset
  | instr (w : InstrWord)
  deriving DecidableEq, Repr

/-- Byte storage: (index, byte) pairs with indices strictly rising. An index that is not listed holds no value (log 8). -/
abbrev Memory := List Host.Cell

/-- The BitCursor (10_state R37 to R39); `next` is the spec's `bc.src`. -/
@[ext]
structure BitCursor where
  cur  : Byte
  pos  : Fin 9
  next : Nat
  deriving DecidableEq, Repr

/-- The sliding window (10_state R46). -/
@[ext]
structure Window where
  mem     : Memory
  wptr    : Nat
  filled  : Nat
  maxDist : Nat
  acq     : Bool
  deriving DecidableEq, Repr

/-- The scratch of a dynamic header (10_state R44, 44_inflate_blocks R280) and the length of 45_inflate_symbols R304 until
R306 uses it (log 13). -/
@[ext]
structure Scratch where
  nLit  : Nat
  nDist : Nat
  clLen : List Nat
  seq   : List Nat
  len   : Nat
  deriving DecidableEq, Repr

/-- The state of the block. The fields from `src` on are the spec's parameters and the model's own (INVENTORY.md). -/
@[ext]
structure State where
  phase      : Phase
  eng        : Eng
  last       : Bool
  frame      : Frame
  storedRem  : BitVec 16
  bc         : BitCursor
  llLen      : List Nat
  llN        : Nat
  dLen       : List Nat
  dN         : Nat
  pendLen    : Nat
  pendDist   : Nat
  win        : Window
  out        : List Byte
  outCount   : Word
  err        : Option StreamError
  resp       : Resp
  cfgFrame   : Frame
  maxDistReg : BitVec 16
  trail      : Word
  scr        : Scratch
  src        : List Byte
  supply     : List Byte
  distMode   : DistMode
  ckParam    : ChecksumParam
  queue      : List Request
  busData    : Word
  ret        : Ret
  deriving DecidableEq, Repr

/-- What stops the machine. Stream errors are not here: they are taken (`State.latch`). -/
inductive Fault where
  /-- Raised by WinCopy and its bulk form when the byte to copy was never written. Safe: 43_sliding_window R236 says no
  run reads such a byte (log 8). -/
  | windowByteUnwritten (index : Nat)
  deriving DecidableEq, Repr

/-- Steps without a meaning (00_scope R17, 60_exceptions R492). -/
inductive Refusal where
  /-- Raised by `exec`'s arms for an instruction without a meaning. Safe. -/
  | notModelled (mnemonic : String)
  /-- Raised by BC_READ_BITS with n > 24 (40_bit_cursor R167). Safe: the spec refuses it. -/
  | readBitsTooWide
  /-- Raised by WinPut, WinCopy and their bulk forms while the window is not held (43_sliding_window R244). Safe (log 9). -/
  | windowNotHeld
  /-- Raised by WinCreate with an operand outside 1..WINDOW_CAPACITY (43_sliding_window R231). Safe (log 10). -/
  | windowCapOutOfRange
  /-- Raised by a host access that is not one aligned 32-bit word (20_memory R89). Safe: the spec refuses it. -/
  | hostAccessNotWord
  /-- Raised where an element is run in an engine state its rule excludes (log 19, log 25). Safe. -/
  | engineContext
  /-- Raised when a loop's bound is used up, which no state reaches (log 17). Safe. -/
  | boundExhausted
  /-- Raised by `step` for a word that is no instruction (log 26). Safe. -/
  | noInstruction
  deriving DecidableEq, Repr

/-- The window after reset (10_state R74). -/
def Window.reset : Window :=
  { mem := [], wptr := 0, filled := 0, maxDist := Config.maxDistReset, acq := false }

/-- The cursor after reset and START (10_state R74). -/
def BitCursor.reset : BitCursor := { cur := 0, pos := 8, next := 0 }

/-- The scratch after reset (model's own values, log 14). -/
def Scratch.reset : Scratch :=
  { nLit := 0, nDist := 0, clLen := List.replicate Config.clSymbols 0, seq := [], len := 0 }

/-- The block right after reset (10_state R74, 70_reset_and_hazards R520). The fields from `src` on are the model's
choice (log 14). -/
def State.reset : State where
  phase := .idle
  eng := .blockFree
  last := false
  frame := .raw
  storedRem := 0
  bc := BitCursor.reset
  llLen := List.replicate 288 0
  llN := 0
  dLen := List.replicate 32 0
  dN := 0
  pendLen := 0
  pendDist := 0
  win := Window.reset
  out := []
  outCount := 0
  err := none
  resp := .none
  cfgFrame := .raw
  maxDistReg := 0x8000
  trail := 0
  scr := Scratch.reset
  src := []
  supply := []
  distMode := .reject
  ckParam := .standard
  queue := []
  busData := 0
  ret := .none

end Sys2Proof.Machine
end

