-- ==== Sys2Proof/Machine/Ops.lean ====
section
/-! DEFINITION. The shared operations: results of an operation, taking an error, the response, the BitCursor (40_bit_cursor.md), the output, the window (43_sliding_window.md) and its storage. -/

namespace Sys2Proof.Machine

open Sys2Proof

/-- What a step answers. -/
abbrev StepResult := Host.Outcome State Fault Refusal

/-- What an operation answers (00_scope R16, R17): a value and the state it left, a raised error with the state it left,
a fault or a refusal. -/
inductive Res (α : Type) where
  | ok (a : α) (s : State)
  | raised (e : StreamError) (s : State)
  | fault (f : Fault)
  | refused (r : Refusal)
  deriving Repr

/-- Go on with `k` after an operation that neither raised nor stopped: `raise` is an early return (00_scope R16). -/
def Res.bind {α β : Type} (r : Res α) (k : α → State → Res β) : Res β :=
  match r with
  | .ok a s => k a s
  | .raised e s => .raised e s
  | .fault f => .fault f
  | .refused r => .refused r

/-! ## Taking an error, and the way out of it -/

/-- The code of an error (60_exceptions R481). -/
def StreamError.code : StreamError → Nat
  | .unexpectedEndOfStream => 1
  | .malformedBlockType => 2
  | .compressAlgorithmError => 3
  | .malformedHuffmanStream => 4
  | .illegalDistance => 5

/-- The value of `err` and of ERROR.CODE: 0 when no error is latched (10_state R49, 60_exceptions R481). -/
def errCode : Option StreamError → Nat
  | none => 0
  | some e => e.code

/-- `Latch(E)`, the one error entry (60_exceptions R480): the error is latched, the session has failed, the response says so,
and everything else stays as the failing operation left it. R488 and R490 have no error in a session that has failed. DEDUCED: an element
or a micro-operation run by itself runs in Failed too, and if it raises, its error overwrites the one latched before (log 27). -/
def State.latch (e : StreamError) (s : State) : State :=
  { s with err := some e, phase := .failed, resp := .error e.code }

/-- The end of a step: a raised error is latched (00_scope R17, 60_exceptions R480). -/
def Res.finish (r : Res Unit) : StepResult :=
  match r with
  | .ok _ s => .next s
  | .raised e s => .next (s.latch e)
  | .fault f => .fault f
  | .refused r => .refused r

/-- `WinRelease()` on the state (43_sliding_window R243). R243 leaves the contents of the storage unspecified; DESIGN CHOICE: they are kept,
as no rule reads them (log 28). There is no return from an error: RELEASE, which calls this, is the one
way out of Failed (60_exceptions R490). -/
def State.releaseWindow (s : State) : State :=
  { s with win := { s.win with acq := false } }

/-- RELEASE's effect on the phase: Released, but for a block that was never started (47_host_commands R452). -/
def State.endSession (s : State) : State :=
  { s with phase := if s.phase = .idle then .idle else .released }

/-- Write the response of a command (47_host_commands R441). -/
def State.respond (r : Resp) (s : State) : State := { s with resp := r }

/-- A rejection changes the response and nothing else (47_host_commands R442). -/
def State.reject (r : RejectReason) (s : State) : State := s.respond (.reject r)

/-! ## BitCursor -/

/-- `SrcPull()` (20_memory R90): the next source byte, or none at the end of the source, which changes nothing. -/
def srcPull (s : State) : Option (Byte × State) :=
  match s.src[s.bc.next]? with
  | some b => some (b, { s with bc := { s.bc with next := s.bc.next + 1 } })
  | none => none

/-- The next buffered bit, consumed. -/
def takeBit (s : State) : Res Bool :=
  .ok (s.bc.cur.getLsbD s.bc.pos.val) { s with bc := { s.bc with pos := s.bc.pos + 1 } }

/-- `ReadBit()` (40_bit_cursor R161): a byte is pulled only when no bit is buffered (R170). -/
def readBit (s : State) : Res Bool :=
  if s.bc.pos = 8 then
    match srcPull s with
    | none => .raised .unexpectedEndOfStream s
    | some (b, s1) => takeBit { s1 with bc := { s1.bc with cur := b, pos := 0 } }
  else takeBit s

/-- `n` bits, the first bit read in bit 0 (40_bit_cursor R162, 20_memory R83). -/
def readBitsLoop : Nat → State → Res Nat
  | 0, s => .ok 0 s
  | n + 1, s =>
    (readBit s).bind fun b s1 =>
      (readBitsLoop n s1).bind fun v s2 => .ok (b.toNat + 2 * v) s2

/-- `ReadBits(n)` (40_bit_cursor R162); more than 24 bits are refused (R167). -/
def readBits (n : Nat) (s : State) : Res Nat :=
  if Config.maxReadBits < n then .refused .readBitsTooWide else readBitsLoop n s

/-- `AlignToByte()` (40_bit_cursor R163). -/
def State.align (s : State) : State := { s with bc := { s.bc with pos := 8 } }

/-- `ReadAlignedByte()` (40_bit_cursor R164). -/
def readAlignedByte (s : State) : Res Byte :=
  (readBits 8 s.align).bind fun v s1 => .ok (BitVec.ofNat 8 v) s1

/-- The number of buffered bits not yet consumed (40_bit_cursor R168, 10_state R71). -/
def State.avail (s : State) : Nat := 8 - s.bc.pos.val

/-- `GetBit(i)` (40_bit_cursor R168): a buffered bit, not consumed; none where the spec rejects with BAD_ARG. -/
def peekBit (i : Nat) (s : State) : Option Bool :=
  if s.avail ≤ i then none else some (s.bc.cur.getLsbD (s.bc.pos.val + i))

/-- The stream position, the block's program-counter analog (10_state R41). -/
def State.bitpos (s : State) : Nat :=
  if s.bc.pos.val < 8 then 8 * s.bc.next - (8 - s.bc.pos.val) else 8 * s.bc.next

/-! ## Output -/

/-- `Emit(b)` (10_state R47). The checksum is a function of `out` (R48). -/
def State.emit (b : Byte) (s : State) : State :=
  { s with out := s.out ++ [b], outCount := s.outCount + 1 }

/-! ## Window storage -/

/-- The byte stored at an index, if one was written. -/
def Memory.read : Memory → Nat → Option Byte
  | [], _ => none
  | (i, b) :: m, a => if i = a then some b else Memory.read m a

/-- Store a byte, keeping the indices strictly rising. -/
def Memory.write : Memory → Nat → Byte → Memory
  | [], a, v => [(a, v)]
  | (i, b) :: m, a, v =>
    if a < i then (a, v) :: (i, b) :: m
    else if a = i then (a, v) :: m
    else (i, b) :: Memory.write m a v

/-- Indices strictly rising, none below `lo`. -/
def Memory.risingFrom : Nat → Memory → Bool
  | _, [] => true
  | lo, (i, _) :: m => decide (lo ≤ i) && Memory.risingFrom (i + 1) m

/-- Every index is one of the storage's (20_memory R80). -/
def Memory.inRange (m : Memory) : Bool := m.all fun c => decide (c.1 < Config.windowCapacity)

/-- The canonical form of window storage: indices strictly rising and inside the storage. -/
def Memory.wf (m : Memory) : Bool := Memory.risingFrom 0 m && Memory.inRange m

/-! ## Sliding window -/

/-- `Legal(d)` (43_sliding_window R235). -/
def Window.legal (w : Window) (d : Nat) : Bool :=
  decide (0 < d) && decide (d ≤ w.maxDist) && decide (d ≤ w.filled)

/-- The physical index of look-back distance `d`: `(wptr - d) mod CAP` (20_memory R93). -/
def Window.index (w : Window) (d : Nat) : Nat :=
  (w.wptr + Config.windowCapacity - d) % Config.windowCapacity

/-- The byte at look-back distance `d`. -/
def Window.look (w : Window) (d : Nat) : Option Byte := Memory.read w.mem (w.index d)

/-- `WinPut(b)` on a held window (43_sliding_window R233). -/
def Window.put (b : Byte) (w : Window) : Window :=
  { w with
    mem := Memory.write w.mem w.wptr b
    wptr := (w.wptr + 1) % Config.windowCapacity
    filled := min (w.filled + 1) Config.windowCapacity }

/-- The state with one byte put into its window. -/
def State.putByte (b : Byte) (s : State) : State := { s with win := s.win.put b }

/-- `WinCreate(m)` (43_sliding_window R231). The storage keeps its bytes, as a put is the only write to it (R234; log 28). -/
def State.createWindow (m : Nat) (s : State) : State :=
  { s with win := { s.win with acq := true, maxDist := m, wptr := 0, filled := 0 } }

/-- `WinClear()` (43_sliding_window R232). The storage keeps its bytes, as a put is the only write to it (R234; log 28). -/
def State.clearWindow (s : State) : State :=
  { s with win := { s.win with wptr := 0, filled := 0 } }

/-- `WinPut(b)` (43_sliding_window R233); refused while the window is not held (R244). -/
def winPut (b : Byte) (s : State) : Res Unit :=
  if s.win.acq then .ok () (s.putByte b) else .refused .windowNotHeld

/-- `WinCopy(d)` (43_sliding_window R237); refused while the window is not held (R244). -/
def winCopy (d : Nat) (s : State) : Res Byte :=
  if s.win.acq then
    if s.win.legal d then
      match s.win.look d with
      | some b => .ok b (s.putByte b)
      | none => .fault (.windowByteUnwritten (s.win.index d))
    else .raised .illegalDistance s
  else .refused .windowNotHeld

/-- The puts of `WinPutBulk`, in order (43_sliding_window R238). -/
def winPutAll : List Byte → State → Res Unit
  | [], s => .ok () s
  | b :: bs, s => (winPut b s).bind fun _ s1 => winPutAll bs s1

/-- `WinPutBulk(bytes, maxLen)` (43_sliding_window R238): `min(maxLen, |bytes|)` puts, and that count. -/
def winPutBulk (maxLen : Nat) (bytes : List Byte) (s : State) : Res Nat :=
  if s.win.acq then
    (winPutAll (bytes.take maxLen) s).bind fun _ s1 => .ok (min maxLen bytes.length) s1
  else .refused .windowNotHeld

/-- The copies of `WinCopyBulk`, in order (43_sliding_window R240). -/
def winCopyAll (d : Nat) : Nat → State → Res (List Byte)
  | 0, s => .ok [] s
  | n + 1, s =>
    (winCopy d s).bind fun b s1 =>
      (winCopyAll d n s1).bind fun bs s2 => .ok (b :: bs) s2

/-- `WinCopyBulk(d, maxLen)` (43_sliding_window R240): the bytes copied. -/
def winCopyBulk (d maxLen : Nat) (s : State) : Res (List Byte) :=
  if s.win.acq then winCopyAll d maxLen s else .refused .windowNotHeld

/-- A decoded byte is written and emitted (10_state R47, 43_sliding_window R234). -/
def putAndEmit (b : Byte) (s : State) : Res Unit :=
  (winPut b s).bind fun _ s1 => .ok () (s1.emit b)

/-! ## Block end -/

/-- `BlockEnd()` (44_inflate_blocks R290). -/
def State.blockEnd (s : State) : State :=
  { s with eng := if s.last then .lastBlockFree else .blockFree }

end Sys2Proof.Machine
end

