-- ==== Sys2Proof/Machine/Operands.lean ====
section
/-! DEFINITION. Operand assembly (30_encoding R124) and the fields of the container headers (30_encoding R117, R118). No operand is sign-extended, scaled or shifted. -/

namespace Sys2Proof.Machine

open Sys2Proof

/-- Bytes as a little-endian number: the first byte lowest (20_memory R85, R86). -/
def leValue : List Byte → Nat
  | [] => 0
  | b :: bs => b.toNat + 256 * leValue bs

/-- Bytes as a big-endian number, after the number `acc` of the bytes before them (20_memory R86). -/
def beValue (acc : Nat) : List Byte → Nat
  | [] => acc
  | b :: bs => beValue (acc * 256 + b.toNat) bs

/-- `n` times `ReadAlignedByte()`, in order. -/
def readBytes : Nat → State → Res (List Byte)
  | 0, s => .ok [] s
  | n + 1, s =>
    (readAlignedByte s).bind fun b s1 =>
      (readBytes n s1).bind fun bs s2 => .ok (b :: bs) s2

/-- A 16-bit field: LEN or NLEN (30_encoding R112). -/
def readField16 (s : State) : Res (BitVec 16) :=
  (readBits 16 s).bind fun v s1 => .ok (BitVec.ofNat 16 v) s1

/-- The stored-block check `LEN XOR NLEN = 0xFFFF` (44_inflate_blocks R274, 90 C2). -/
def storedLenOk (len nlen : BitVec 16) : Bool := len ^^^ nlen == 0xFFFF

/-- The zlib header value `H = CMF * 256 + FLG` (30_encoding R117). -/
def zlibValue (cmf flg : Byte) : BitVec 16 := BitVec.ofNat 16 (cmf.toNat * 256 + flg.toNat)

/-- CM, `H[11:8]` (30_encoding R117). -/
def zlibCM (h : BitVec 16) : Nat := (h.extractLsb' 8 4).toNat

/-- CINFO, `H[15:12]` (30_encoding R117). -/
def zlibCINFO (h : BitVec 16) : Nat := (h.extractLsb' 12 4).toNat

/-- FDICT, `H[5]` (30_encoding R117). -/
def zlibFDICT (h : BitVec 16) : Bool := h.getLsbD 5

/-- The four zlib header checks (46_frame_parser R403 to R406); FLEVEL is not checked (R407). -/
def zlibHeaderOk (h : BitVec 16) : Bool :=
  h.toNat % 31 == 0 && zlibCM h == 8 && decide (zlibCINFO h < 8) && !zlibFDICT h

/-- `ZLIB_WINDOW(cinfo)` (00_scope R10). -/
def zlibWindow (h : BitVec 16) : Nat := 1 <<< (zlibCINFO h + 8)

/-- ID1, ID2, CM and FLG of a gzip header as the little-endian value of its first four bytes (30_encoding R118). -/
def gzipByte (start : BitVec 32) (k : Nat) : Byte := start.extractLsb' (8 * k) 8

/-- The check of the `k`-th byte of a gzip header, k = 0 to 3 (46_frame_parser R410, R411, R412). -/
def gzipByteOk (k : Nat) (b : Byte) : Bool :=
  match k with
  | 0 => b == 0x1F
  | 1 => b == 0x8B
  | 2 => b == 0x08
  | _ => b.extractLsb' 5 3 == 0

/-- FHCRC, FEXTRA, FNAME and FCOMMENT of FLG (30_encoding R118); FTEXT, bit 0, has no effect (46_frame_parser R418). -/
def gzipFHCRC (flg : Byte) : Bool := flg.getLsbD 1
/-- FEXTRA, `FLG[2]`. -/
def gzipFEXTRA (flg : Byte) : Bool := flg.getLsbD 2
/-- FNAME, `FLG[3]`. -/
def gzipFNAME (flg : Byte) : Bool := flg.getLsbD 3
/-- FCOMMENT, `FLG[4]`. -/
def gzipFCOMMENT (flg : Byte) : Bool := flg.getLsbD 4

end Sys2Proof.Machine
end

