-- ==== Sys2Proof/Machine/Huffman.lean ====
section
/-! DEFINITION. Canonical code construction (41_canonical_huffman.md), the symbol resolver (42_symbol_resolver.md) and the constant tables (41 R190 to R193). -/

namespace Sys2Proof.Machine

open Sys2Proof

/-- `lengthCount[L]`, with `lengthCount[0]` forced to 0 (41_canonical_huffman R181). -/
def lengthCount (lengths : List Nat) (L : Nat) : Nat :=
  if L = 0 then 0 else lengths.countP (· == L)

/-- The Kraft sum over lengths 1 to 15, written with 15 (41_canonical_huffman R184). -/
def kraftSum (lengths : List Nat) : Nat :=
  ((List.range Config.maxCodeLen).map fun k => lengthCount lengths (k + 1) * 2 ^ (14 - k)).sum

/-- The first code values of lengths `L`, `L+1`, … from the first code `c` of length `L`: `nextCode[L+1] = (nextCode[L] +
lengthCount[L]) << 1` (41_canonical_huffman R182). -/
def firstCodesFrom (lengths : List Nat) : Nat → Nat → Nat → List Nat
  | 0, _, _ => []
  | n + 1, L, c => c :: firstCodesFrom lengths n (L + 1) ((c + lengthCount lengths L) * 2)

/-- `nextCode[0..15]` before any code is assigned; `nextCode[1]` is 0 (41_canonical_huffman R182). -/
def firstCodes (lengths : List Nat) : List Nat := firstCodesFrom lengths (Config.maxCodeLen + 1) 0 0

/-- Codes in ascending symbol order: `value = nextCode[lengths[i]]++` for each used symbol (41_canonical_huffman R182). -/
def assignCodes : List Nat → Nat → List Nat → List Code
  | _, _, [] => []
  | next, i, L :: ls =>
    if L = 0 then assignCodes next (i + 1) ls
    else ⟨i, L, next.getD L 0⟩ :: assignCodes (next.set L (next.getD L 0 + 1)) (i + 1) ls

/-- `maxLen`: the largest used length, 0 when no symbol is used (41_canonical_huffman R186). -/
def maxLength (lengths : List Nat) : Nat := lengths.foldl max 0

/-- `BuildCodes(lengths)` (41_canonical_huffman R180): an overlength entry (R183) or an oversubscribed set (R184) raises
MalformedHuffmanStream; an empty (R187) or incomplete (R189) set builds. -/
def buildCodes (lengths : List Nat) : Except StreamError CodeTable :=
  if lengths.any (fun l => decide (Config.maxCodeLen < l)) then .error .malformedHuffmanStream
  else if 2 ^ Config.maxCodeLen < kraftSum lengths then .error .malformedHuffmanStream
  else .ok ⟨assignCodes (firstCodes lengths) 0 lengths, maxLength lengths⟩

/-- The code that a candidate of `L` bits and value `c` is, if it is one. -/
def findCode (codes : List Code) (L c : Nat) : Option Code :=
  codes.find? fun e => e.len == L && e.val == c

/-- The resolver from a candidate of `L` bits and value `c`, with `n` more bits to try (42_symbol_resolver R211, R212). -/
def resolveLoop (codes : List Code) : Nat → Nat → Nat → State → Res Nat
  | 0, _, _, s => .raised .malformedHuffmanStream s
  | n + 1, L, c, s =>
    (readBit s).bind fun b s1 =>
      match findCode codes (L + 1) (c * 2 + b.toNat) with
      | some e => .ok e.sym s1
      | none => resolveLoop codes n (L + 1) (c * 2 + b.toNat) s1

/-- `Decode(T)` (42_symbol_resolver R211); an empty table raises without reading a bit (R213). -/
def resolve (t : CodeTable) (s : State) : Res Nat := resolveLoop t.codes t.maxLen 0 0 s

/-- Build a table from lengths, then go on: a build that fails raises (41_canonical_huffman R180). -/
def withTable {α : Type} (lengths : List Nat) (s : State) (k : CodeTable → Res α) : Res α :=
  match buildCodes lengths with
  | .error e => .raised e s
  | .ok t => k t

/-- The lengths of the current literal/length code, `llLen[0..llN)` (10_state R42). -/
def State.llLengths (s : State) : List Nat := s.llLen.take s.llN

/-- The lengths of the current distance code, `dLen[0..dN)` (10_state R43). -/
def State.dLengths (s : State) : List Nat := s.dLen.take s.dN

/-- `Decode(llTab)` (45_inflate_symbols R301). -/
def decodeLitlen (s : State) : Res Nat := withTable s.llLengths s fun t => resolve t s

/-- `Decode(dTab)` (45_inflate_symbols R305). -/
def decodeDist (s : State) : Res Nat := withTable s.dLengths s fun t => resolve t s

/-- The fixed literal/length code lengths (41_canonical_huffman R190). -/
def fixedLitlenLengths : List Nat :=
  List.replicate 144 8 ++ List.replicate 112 9 ++ List.replicate 24 7 ++ List.replicate 8 8

/-- The fixed distance code lengths (41_canonical_huffman R191). -/
def fixedDistLengths : List Nat := List.replicate 32 5

/-- `CLORD`, the transmission order of the code-length code lengths (41_canonical_huffman R193). -/
def clOrder : List Nat := [16, 17, 18, 0, 8, 7, 9, 6, 10, 5, 11, 4, 12, 3, 13, 2, 14, 1, 15]

/-- Lengths followed by zeros up to `n` entries (10_state R42, R43). -/
def padTo (n : Nat) (lengths : List Nat) : List Nat := lengths ++ List.replicate (n - lengths.length) 0

/-- Write the two code tables (44_inflate_blocks R278, R280, R289). -/
def State.installTables (ll d : List Nat) (s : State) : State :=
  { s with llLen := padTo 288 ll, llN := ll.length, dLen := padTo 32 d, dN := d.length }

end Sys2Proof.Machine
end

