-- ==== Sys2Proof/Machine/Symbols.lean ====
section
/-! DEFINITION. The symbols of a Huffman block: literal, end of block, each length, each distance, the invalid ones (45_inflate_symbols.md), and the pending copy. -/

namespace Sys2Proof.Machine

open Sys2Proof

/-! ## Distance symbols -/

/-- A distance symbol with base and extra-bit width (45_inflate_symbols R306): the extra bits are read, then the pending copy is
written from the length that came before. DEDUCED: run by itself while a copy is outstanding, where R301 and R307 issue no symbol, it runs
and overwrites that copy (log 25). -/
def distSymbol (base ext : Nat) (s : State) : Res Unit :=
  (readBits ext s).bind fun e s1 => .ok () { s1 with pendLen := s1.scr.len, pendDist := base + e }

/-- `DIST30_31_ERR` (45_inflate_symbols R371). -/
def distInvalidError : DistMode → StreamError
  | .reject => .malformedHuffmanStream
  | .illegalDistance => .illegalDistance

/-- DIST_0 (45_inflate_symbols R340; 41_canonical_huffman R196). -/
def elemDist0 (s : State) : Res Unit := distSymbol 1 0 s
/-- DIST_1 (45_inflate_symbols R341; 41_canonical_huffman R196). -/
def elemDist1 (s : State) : Res Unit := distSymbol 2 0 s
/-- DIST_2 (45_inflate_symbols R342; 41_canonical_huffman R196). -/
def elemDist2 (s : State) : Res Unit := distSymbol 3 0 s
/-- DIST_3 (45_inflate_symbols R343; 41_canonical_huffman R196). -/
def elemDist3 (s : State) : Res Unit := distSymbol 4 0 s
/-- DIST_4 (45_inflate_symbols R344; 41_canonical_huffman R196). -/
def elemDist4 (s : State) : Res Unit := distSymbol 5 1 s
/-- DIST_5 (45_inflate_symbols R345; 41_canonical_huffman R196). -/
def elemDist5 (s : State) : Res Unit := distSymbol 7 1 s
/-- DIST_6 (45_inflate_symbols R346; 41_canonical_huffman R196). -/
def elemDist6 (s : State) : Res Unit := distSymbol 9 2 s
/-- DIST_7 (45_inflate_symbols R347; 41_canonical_huffman R196). -/
def elemDist7 (s : State) : Res Unit := distSymbol 13 2 s
/-- DIST_8 (45_inflate_symbols R348; 41_canonical_huffman R196). -/
def elemDist8 (s : State) : Res Unit := distSymbol 17 3 s
/-- DIST_9 (45_inflate_symbols R349; 41_canonical_huffman R196). -/
def elemDist9 (s : State) : Res Unit := distSymbol 25 3 s
/-- DIST_10 (45_inflate_symbols R350; 41_canonical_huffman R196). -/
def elemDist10 (s : State) : Res Unit := distSymbol 33 4 s
/-- DIST_11 (45_inflate_symbols R351; 41_canonical_huffman R196). -/
def elemDist11 (s : State) : Res Unit := distSymbol 49 4 s
/-- DIST_12 (45_inflate_symbols R352; 41_canonical_huffman R196). -/
def elemDist12 (s : State) : Res Unit := distSymbol 65 5 s
/-- DIST_13 (45_inflate_symbols R353; 41_canonical_huffman R196). -/
def elemDist13 (s : State) : Res Unit := distSymbol 97 5 s
/-- DIST_14 (45_inflate_symbols R354; 41_canonical_huffman R196). -/
def elemDist14 (s : State) : Res Unit := distSymbol 129 6 s
/-- DIST_15 (45_inflate_symbols R355; 41_canonical_huffman R196). -/
def elemDist15 (s : State) : Res Unit := distSymbol 193 6 s
/-- DIST_16 (45_inflate_symbols R356; 41_canonical_huffman R196). -/
def elemDist16 (s : State) : Res Unit := distSymbol 257 7 s
/-- DIST_17 (45_inflate_symbols R357; 41_canonical_huffman R196). -/
def elemDist17 (s : State) : Res Unit := distSymbol 385 7 s
/-- DIST_18 (45_inflate_symbols R358; 41_canonical_huffman R196). -/
def elemDist18 (s : State) : Res Unit := distSymbol 513 8 s
/-- DIST_19 (45_inflate_symbols R359; 41_canonical_huffman R196). -/
def elemDist19 (s : State) : Res Unit := distSymbol 769 8 s
/-- DIST_20 (45_inflate_symbols R360; 41_canonical_huffman R196). -/
def elemDist20 (s : State) : Res Unit := distSymbol 1025 9 s
/-- DIST_21 (45_inflate_symbols R361; 41_canonical_huffman R196). -/
def elemDist21 (s : State) : Res Unit := distSymbol 1537 9 s
/-- DIST_22 (45_inflate_symbols R362; 41_canonical_huffman R196). -/
def elemDist22 (s : State) : Res Unit := distSymbol 2049 10 s
/-- DIST_23 (45_inflate_symbols R363; 41_canonical_huffman R196). -/
def elemDist23 (s : State) : Res Unit := distSymbol 3073 10 s
/-- DIST_24 (45_inflate_symbols R364; 41_canonical_huffman R196). -/
def elemDist24 (s : State) : Res Unit := distSymbol 4097 11 s
/-- DIST_25 (45_inflate_symbols R365; 41_canonical_huffman R196). -/
def elemDist25 (s : State) : Res Unit := distSymbol 6145 11 s
/-- DIST_26 (45_inflate_symbols R366; 41_canonical_huffman R196). -/
def elemDist26 (s : State) : Res Unit := distSymbol 8193 12 s
/-- DIST_27 (45_inflate_symbols R367; 41_canonical_huffman R196). -/
def elemDist27 (s : State) : Res Unit := distSymbol 12289 12 s
/-- DIST_28 (45_inflate_symbols R368; 41_canonical_huffman R196). -/
def elemDist28 (s : State) : Res Unit := distSymbol 16385 13 s
/-- DIST_29 (45_inflate_symbols R369; 41_canonical_huffman R196). -/
def elemDist29 (s : State) : Res Unit := distSymbol 24577 13 s
/-- DIST_INVALID, distance symbols 30 and 31 (45_inflate_symbols R371). -/
def elemDistInvalid (_low : BitVec 1) (s : State) : Res Unit := .raised (distInvalidError s.distMode) s

/-- The meanings of distance symbols 0 to 29 in order. -/
def distElems : List (State → Res Unit) :=
  [elemDist0, elemDist1, elemDist2, elemDist3, elemDist4, elemDist5, elemDist6, elemDist7, elemDist8, elemDist9,
   elemDist10, elemDist11, elemDist12, elemDist13, elemDist14, elemDist15, elemDist16, elemDist17, elemDist18,
   elemDist19, elemDist20, elemDist21, elemDist22, elemDist23, elemDist24, elemDist25, elemDist26, elemDist27,
   elemDist28, elemDist29]

/-- The element a decoded distance symbol is (45_inflate_symbols R300): 30 and above are invalid. -/
def distElem (ds : Nat) (s : State) : Res Unit :=
  match distElems[ds]? with
  | some elem => elem s
  | none => elemDistInvalid (BitVec.ofNat 1 ds) s

/-! ## Length symbols -/

/-- A length symbol with base and extra-bit width (45_inflate_symbols R304): its extra bits, then the distance element
(R305, R306). DEDUCED: run by itself while a copy is outstanding, where R301 and R307 issue no symbol, it runs and overwrites that copy
(log 25). -/
def lenSymbol (base ext : Nat) (s : State) : Res Unit :=
  (readBits ext s).bind fun e s1 =>
    (decodeDist { s1 with scr := { s1.scr with len := base + e } }).bind fun ds s2 => distElem ds s2

/-- LEN_257 (45_inflate_symbols R310; 41_canonical_huffman R195). -/
def elemLen257 (s : State) : Res Unit := lenSymbol 3 0 s
/-- LEN_258 (45_inflate_symbols R311; 41_canonical_huffman R195). -/
def elemLen258 (s : State) : Res Unit := lenSymbol 4 0 s
/-- LEN_259 (45_inflate_symbols R312; 41_canonical_huffman R195). -/
def elemLen259 (s : State) : Res Unit := lenSymbol 5 0 s
/-- LEN_260 (45_inflate_symbols R313; 41_canonical_huffman R195). -/
def elemLen260 (s : State) : Res Unit := lenSymbol 6 0 s
/-- LEN_261 (45_inflate_symbols R314; 41_canonical_huffman R195). -/
def elemLen261 (s : State) : Res Unit := lenSymbol 7 0 s
/-- LEN_262 (45_inflate_symbols R315; 41_canonical_huffman R195). -/
def elemLen262 (s : State) : Res Unit := lenSymbol 8 0 s
/-- LEN_263 (45_inflate_symbols R316; 41_canonical_huffman R195). -/
def elemLen263 (s : State) : Res Unit := lenSymbol 9 0 s
/-- LEN_264 (45_inflate_symbols R317; 41_canonical_huffman R195). -/
def elemLen264 (s : State) : Res Unit := lenSymbol 10 0 s
/-- LEN_265 (45_inflate_symbols R318; 41_canonical_huffman R195). -/
def elemLen265 (s : State) : Res Unit := lenSymbol 11 1 s
/-- LEN_266 (45_inflate_symbols R319; 41_canonical_huffman R195). -/
def elemLen266 (s : State) : Res Unit := lenSymbol 13 1 s
/-- LEN_267 (45_inflate_symbols R320; 41_canonical_huffman R195). -/
def elemLen267 (s : State) : Res Unit := lenSymbol 15 1 s
/-- LEN_268 (45_inflate_symbols R321; 41_canonical_huffman R195). -/
def elemLen268 (s : State) : Res Unit := lenSymbol 17 1 s
/-- LEN_269 (45_inflate_symbols R322; 41_canonical_huffman R195). -/
def elemLen269 (s : State) : Res Unit := lenSymbol 19 2 s
/-- LEN_270 (45_inflate_symbols R323; 41_canonical_huffman R195). -/
def elemLen270 (s : State) : Res Unit := lenSymbol 23 2 s
/-- LEN_271 (45_inflate_symbols R324; 41_canonical_huffman R195). -/
def elemLen271 (s : State) : Res Unit := lenSymbol 27 2 s
/-- LEN_272 (45_inflate_symbols R325; 41_canonical_huffman R195). -/
def elemLen272 (s : State) : Res Unit := lenSymbol 31 2 s
/-- LEN_273 (45_inflate_symbols R326; 41_canonical_huffman R195). -/
def elemLen273 (s : State) : Res Unit := lenSymbol 35 3 s
/-- LEN_274 (45_inflate_symbols R327; 41_canonical_huffman R195). -/
def elemLen274 (s : State) : Res Unit := lenSymbol 43 3 s
/-- LEN_275 (45_inflate_symbols R328; 41_canonical_huffman R195). -/
def elemLen275 (s : State) : Res Unit := lenSymbol 51 3 s
/-- LEN_276 (45_inflate_symbols R329; 41_canonical_huffman R195). -/
def elemLen276 (s : State) : Res Unit := lenSymbol 59 3 s
/-- LEN_277 (45_inflate_symbols R330; 41_canonical_huffman R195). -/
def elemLen277 (s : State) : Res Unit := lenSymbol 67 4 s
/-- LEN_278 (45_inflate_symbols R331; 41_canonical_huffman R195). -/
def elemLen278 (s : State) : Res Unit := lenSymbol 83 4 s
/-- LEN_279 (45_inflate_symbols R332; 41_canonical_huffman R195). -/
def elemLen279 (s : State) : Res Unit := lenSymbol 99 4 s
/-- LEN_280 (45_inflate_symbols R333; 41_canonical_huffman R195). -/
def elemLen280 (s : State) : Res Unit := lenSymbol 115 4 s
/-- LEN_281 (45_inflate_symbols R334; 41_canonical_huffman R195). -/
def elemLen281 (s : State) : Res Unit := lenSymbol 131 5 s
/-- LEN_282 (45_inflate_symbols R335; 41_canonical_huffman R195). -/
def elemLen282 (s : State) : Res Unit := lenSymbol 163 5 s
/-- LEN_283 (45_inflate_symbols R336; 41_canonical_huffman R195). -/
def elemLen283 (s : State) : Res Unit := lenSymbol 195 5 s
/-- LEN_284 (45_inflate_symbols R337; 41_canonical_huffman R195). -/
def elemLen284 (s : State) : Res Unit := lenSymbol 227 5 s
/-- LEN_285 (45_inflate_symbols R338; 41_canonical_huffman R195). -/
def elemLen285 (s : State) : Res Unit := lenSymbol 258 0 s

/-- The meanings of length symbols 257 to 285 in order. -/
def lenElems : List (State → Res Unit) :=
  [elemLen257, elemLen258, elemLen259, elemLen260, elemLen261, elemLen262, elemLen263, elemLen264, elemLen265,
   elemLen266, elemLen267, elemLen268, elemLen269, elemLen270, elemLen271, elemLen272, elemLen273, elemLen274,
   elemLen275, elemLen276, elemLen277, elemLen278, elemLen279, elemLen280, elemLen281, elemLen282, elemLen283,
   elemLen284, elemLen285]

/-! ## Literal, end of block, invalid -/

/-- LIT (45_inflate_symbols R302). DEDUCED: run by itself it does not check for an outstanding copy, which it leaves (log 25). -/
def elemLit (b : Byte) (s : State) : Res Unit := putAndEmit b s

/-- EOB (45_inflate_symbols R303). DEDUCED: run by itself it does not check for an outstanding copy, which it leaves (log 25). -/
def elemEob (s : State) : Res Unit := .ok () s.blockEnd

/-- LITLEN_INVALID, literal/length symbols 286 and 287 (45_inflate_symbols R370). -/
def elemLitlenInvalid (_low : BitVec 1) (s : State) : Res Unit := .raised .malformedHuffmanStream s

/-! ## The Huffman step -/

/-- A copied byte of the pending copy (45_inflate_symbols R307). -/
def copyStep (s : State) : Res Byte :=
  (winCopy s.pendDist s).bind fun b s1 =>
    .ok b { s1.emit b with pendLen := (s1.emit b).pendLen - 1 }

/-- What a decoded literal/length symbol does (45_inflate_symbols R300); a literal returns its byte. -/
def litlenElem (sym : Nat) (s : State) : Res (Option Byte) :=
  if sym < 256 then (elemLit (BitVec.ofNat 8 sym) s).bind fun _ s1 => .ok (some (BitVec.ofNat 8 sym)) s1
  else if sym = 256 then (elemEob s).bind fun _ s1 => .ok none s1
  else
    match lenElems[sym - 257]? with
    | some elem => (elem s).bind fun _ s1 => .ok none s1
    | none => (elemLitlenInvalid (BitVec.ofNat 1 sym) s).bind fun _ s1 => .ok none s1

/-- `HuffStep()` (45_inflate_symbols R300): a byte of the pending copy, or one symbol. -/
def huffStep (s : State) : Res (Option Byte) :=
  if 0 < s.pendLen then (copyStep s).bind fun b s1 => .ok (some b) s1
  else (decodeLitlen s).bind fun sym s1 => litlenElem sym s1

/-! ## The instructions -/

/-- LIT as an instruction. -/
def execLit (b : Byte) (s : State) : StepResult := (elemLit b s).finish
/-- EOB as an instruction. -/
def execEob (s : State) : StepResult := (elemEob s).finish
/-- LEN_257 as an instruction. -/
def execLen257 (s : State) : StepResult := (elemLen257 s).finish
/-- LEN_258 as an instruction. -/
def execLen258 (s : State) : StepResult := (elemLen258 s).finish
/-- LEN_259 as an instruction. -/
def execLen259 (s : State) : StepResult := (elemLen259 s).finish
/-- LEN_260 as an instruction. -/
def execLen260 (s : State) : StepResult := (elemLen260 s).finish
/-- LEN_261 as an instruction. -/
def execLen261 (s : State) : StepResult := (elemLen261 s).finish
/-- LEN_262 as an instruction. -/
def execLen262 (s : State) : StepResult := (elemLen262 s).finish
/-- LEN_263 as an instruction. -/
def execLen263 (s : State) : StepResult := (elemLen263 s).finish
/-- LEN_264 as an instruction. -/
def execLen264 (s : State) : StepResult := (elemLen264 s).finish
/-- LEN_265 as an instruction. -/
def execLen265 (s : State) : StepResult := (elemLen265 s).finish
/-- LEN_266 as an instruction. -/
def execLen266 (s : State) : StepResult := (elemLen266 s).finish
/-- LEN_267 as an instruction. -/
def execLen267 (s : State) : StepResult := (elemLen267 s).finish
/-- LEN_268 as an instruction. -/
def execLen268 (s : State) : StepResult := (elemLen268 s).finish
/-- LEN_269 as an instruction. -/
def execLen269 (s : State) : StepResult := (elemLen269 s).finish
/-- LEN_270 as an instruction. -/
def execLen270 (s : State) : StepResult := (elemLen270 s).finish
/-- LEN_271 as an instruction. -/
def execLen271 (s : State) : StepResult := (elemLen271 s).finish
/-- LEN_272 as an instruction. -/
def execLen272 (s : State) : StepResult := (elemLen272 s).finish
/-- LEN_273 as an instruction. -/
def execLen273 (s : State) : StepResult := (elemLen273 s).finish
/-- LEN_274 as an instruction. -/
def execLen274 (s : State) : StepResult := (elemLen274 s).finish
/-- LEN_275 as an instruction. -/
def execLen275 (s : State) : StepResult := (elemLen275 s).finish
/-- LEN_276 as an instruction. -/
def execLen276 (s : State) : StepResult := (elemLen276 s).finish
/-- LEN_277 as an instruction. -/
def execLen277 (s : State) : StepResult := (elemLen277 s).finish
/-- LEN_278 as an instruction. -/
def execLen278 (s : State) : StepResult := (elemLen278 s).finish
/-- LEN_279 as an instruction. -/
def execLen279 (s : State) : StepResult := (elemLen279 s).finish
/-- LEN_280 as an instruction. -/
def execLen280 (s : State) : StepResult := (elemLen280 s).finish
/-- LEN_281 as an instruction. -/
def execLen281 (s : State) : StepResult := (elemLen281 s).finish
/-- LEN_282 as an instruction. -/
def execLen282 (s : State) : StepResult := (elemLen282 s).finish
/-- LEN_283 as an instruction. -/
def execLen283 (s : State) : StepResult := (elemLen283 s).finish
/-- LEN_284 as an instruction. -/
def execLen284 (s : State) : StepResult := (elemLen284 s).finish
/-- LEN_285 as an instruction. -/
def execLen285 (s : State) : StepResult := (elemLen285 s).finish
/-- LITLEN_INVALID as an instruction. -/
def execLitlenInvalid (low : BitVec 1) (s : State) : StepResult := (elemLitlenInvalid low s).finish
/-- DIST_0 as an instruction. -/
def execDist0 (s : State) : StepResult := (elemDist0 s).finish
/-- DIST_1 as an instruction. -/
def execDist1 (s : State) : StepResult := (elemDist1 s).finish
/-- DIST_2 as an instruction. -/
def execDist2 (s : State) : StepResult := (elemDist2 s).finish
/-- DIST_3 as an instruction. -/
def execDist3 (s : State) : StepResult := (elemDist3 s).finish
/-- DIST_4 as an instruction. -/
def execDist4 (s : State) : StepResult := (elemDist4 s).finish
/-- DIST_5 as an instruction. -/
def execDist5 (s : State) : StepResult := (elemDist5 s).finish
/-- DIST_6 as an instruction. -/
def execDist6 (s : State) : StepResult := (elemDist6 s).finish
/-- DIST_7 as an instruction. -/
def execDist7 (s : State) : StepResult := (elemDist7 s).finish
/-- DIST_8 as an instruction. -/
def execDist8 (s : State) : StepResult := (elemDist8 s).finish
/-- DIST_9 as an instruction. -/
def execDist9 (s : State) : StepResult := (elemDist9 s).finish
/-- DIST_10 as an instruction. -/
def execDist10 (s : State) : StepResult := (elemDist10 s).finish
/-- DIST_11 as an instruction. -/
def execDist11 (s : State) : StepResult := (elemDist11 s).finish
/-- DIST_12 as an instruction. -/
def execDist12 (s : State) : StepResult := (elemDist12 s).finish
/-- DIST_13 as an instruction. -/
def execDist13 (s : State) : StepResult := (elemDist13 s).finish
/-- DIST_14 as an instruction. -/
def execDist14 (s : State) : StepResult := (elemDist14 s).finish
/-- DIST_15 as an instruction. -/
def execDist15 (s : State) : StepResult := (elemDist15 s).finish
/-- DIST_16 as an instruction. -/
def execDist16 (s : State) : StepResult := (elemDist16 s).finish
/-- DIST_17 as an instruction. -/
def execDist17 (s : State) : StepResult := (elemDist17 s).finish
/-- DIST_18 as an instruction. -/
def execDist18 (s : State) : StepResult := (elemDist18 s).finish
/-- DIST_19 as an instruction. -/
def execDist19 (s : State) : StepResult := (elemDist19 s).finish
/-- DIST_20 as an instruction. -/
def execDist20 (s : State) : StepResult := (elemDist20 s).finish
/-- DIST_21 as an instruction. -/
def execDist21 (s : State) : StepResult := (elemDist21 s).finish
/-- DIST_22 as an instruction. -/
def execDist22 (s : State) : StepResult := (elemDist22 s).finish
/-- DIST_23 as an instruction. -/
def execDist23 (s : State) : StepResult := (elemDist23 s).finish
/-- DIST_24 as an instruction. -/
def execDist24 (s : State) : StepResult := (elemDist24 s).finish
/-- DIST_25 as an instruction. -/
def execDist25 (s : State) : StepResult := (elemDist25 s).finish
/-- DIST_26 as an instruction. -/
def execDist26 (s : State) : StepResult := (elemDist26 s).finish
/-- DIST_27 as an instruction. -/
def execDist27 (s : State) : StepResult := (elemDist27 s).finish
/-- DIST_28 as an instruction. -/
def execDist28 (s : State) : StepResult := (elemDist28 s).finish
/-- DIST_29 as an instruction. -/
def execDist29 (s : State) : StepResult := (elemDist29 s).finish
/-- DIST_INVALID as an instruction. -/
def execDistInvalid (low : BitVec 1) (s : State) : StepResult := (elemDistInvalid low s).finish

end Sys2Proof.Machine
end

