-- ==== Sys2Proof/Machine/Blocks.lean ====
section
/-! DEFINITION. The block-level elements (44_inflate_blocks.md): block header, stored block, fixed install, dynamic header and its code-length symbols. -/

namespace Sys2Proof.Machine

open Sys2Proof

/-! ## Stored block -/

/-- STORED_HDR: the check, made when both fields have been read, and the block's start (44_inflate_blocks R274). -/
def elemStoredHdr (len nlen : BitVec 16) (s : State) : Res Unit :=
  if storedLenOk len nlen then .ok () { s with storedRem := len, eng := .stored }
  else .raised .compressAlgorithmError s

/-- `StoredHeader()` (44_inflate_blocks R274): align, LEN, NLEN, then STORED_HDR. -/
def storedHeader (s : State) : Res Unit :=
  (readField16 s.align).bind fun len s1 =>
    (readField16 s1).bind fun nlen s2 => elemStoredHdr len nlen s2

/-- STORED_BYTE (44_inflate_blocks R275): its rule has `eng` = Stored and storedRem > 0. DEDUCED: with no byte left it is refused; with
bytes left it runs whatever the engine state is, as the elements check none (log 25). -/
def elemStoredByte (b : Byte) (s : State) : Res Unit :=
  if s.storedRem = 0 then .refused .engineContext
  else (putAndEmit b s).bind fun _ s1 => .ok () { s1 with storedRem := s1.storedRem - 1 }

/-- `StoredByte()` (44_inflate_blocks R275): the byte is read aligned. -/
def storedByte (s : State) : Res Byte :=
  (readAlignedByte s).bind fun b s1 => (elemStoredByte b s1).bind fun _ s2 => .ok b s2

/-! ## Fixed Huffman block -/

/-- `FixedInstall()` (44_inflate_blocks R278). -/
def fixedInstall (s : State) : Res Unit :=
  .ok () { s.installTables fixedLitlenLengths fixedDistLengths with eng := .fixedHuffman }

/-! ## Code-length symbols -/

/-- Append `r` copies of a length to the sequence, unless they run past `nLit + nDist` (44_inflate_blocks R286 to R288). -/
def appendRepeat (l r : Nat) (s : State) : Res Unit :=
  if s.scr.nLit + s.scr.nDist < s.scr.seq.length + r then .raised .malformedHuffmanStream s
  else .ok () { s with scr := { s.scr with seq := s.scr.seq ++ List.replicate r l } }

/-- CL_LEN (44_inflate_blocks R285). DEDUCED: run by itself it appends to a full sequence too (log 25). -/
def elemClLen (l : BitVec 4) (s : State) : Res Unit :=
  .ok () { s with scr := { s.scr with seq := s.scr.seq ++ [l.toNat] } }

/-- CL_REP16 (44_inflate_blocks R286): without a previous length it raises before its extra bits are read. -/
def elemClRep16 (s : State) : Res Unit :=
  match s.scr.seq.getLast? with
  | none => .raised .malformedHuffmanStream s
  | some l => (readBits 2 s).bind fun e s1 => appendRepeat l (3 + e) s1

/-- CL_REP17 (44_inflate_blocks R287). -/
def elemClRep17 (s : State) : Res Unit :=
  (readBits 3 s).bind fun e s1 => appendRepeat 0 (3 + e) s1

/-- CL_REP18 (44_inflate_blocks R288). -/
def elemClRep18 (s : State) : Res Unit :=
  (readBits 7 s).bind fun e s1 => appendRepeat 0 (11 + e) s1

/-- `CodeLengthSymbol(s)` (44_inflate_blocks R280, R285 to R288); the code-length code has no symbol above 18. -/
def clElem (sym : Nat) (s : State) : Res Unit :=
  if sym < 16 then elemClLen (BitVec.ofNat 4 sym) s
  else if sym = 16 then elemClRep16 s
  else if sym = 17 then elemClRep17 s
  else if sym = 18 then elemClRep18 s
  else .refused .engineContext

/-! ## Dynamic Huffman header -/

/-- The 3-bit code-length code lengths, for the symbols in transmission order (44_inflate_blocks R282). -/
def readClLens : List Nat → State → Res Unit
  | [], s => .ok () s
  | k :: ks, s =>
    (readBits 3 s).bind fun v s1 =>
      readClLens ks { s1 with scr := { s1.scr with clLen := s1.scr.clLen.set k v } }

/-- The length sequence: code-length symbols until `nLit + nDist` lengths are there (44_inflate_blocks R284). Each symbol appends
a length, so a bound of `nLit + nDist + 1` is never used up (log 17). -/
def readLengths (t : CodeTable) : Nat → State → Res Unit
  | 0, _ => .refused .boundExhausted
  | n + 1, s =>
    if s.scr.seq.length < s.scr.nLit + s.scr.nDist then
      (resolve t s).bind fun sym s1 => (clElem sym s1).bind fun _ s2 => readLengths t n s2
    else .ok () s

/-- The scratch of a dynamic header, cleared at its start (10_state R44). -/
def State.beginDynamic (nLit nDist : Nat) (s : State) : State :=
  { s with scr := { s.scr with nLit := nLit, nDist := nDist, clLen := List.replicate Config.clSymbols 0, seq := [] } }

/-- Build both alphabets, literal/length first, and install them only when both build (44_inflate_blocks R289). -/
def installDynamic (ll d : List Nat) (s : State) : Res Unit :=
  withTable ll s fun _ => withTable d s fun _ =>
    .ok () { s.installTables ll d with eng := .dynamicHuffman }

/-- DYN_HDR (44_inflate_blocks R280 to R289), from its 14 count bits on. -/
def elemDynHdr (hlit hdist : BitVec 5) (hclen : BitVec 4) (s : State) : Res Unit :=
  let nLit := hlit.toNat + 257
  let nDist := hdist.toNat + 1
  let nCL := hclen.toNat + 4
  if Config.litLenSymbols < nLit ∨ Config.distSymbols < nDist then .raised .malformedHuffmanStream s
  else
    (readClLens (clOrder.take nCL) (s.beginDynamic nLit nDist)).bind fun _ s1 =>
      withTable s1.scr.clLen s1 fun t =>
        (readLengths t (nLit + nDist + 1) s1).bind fun _ s2 =>
          installDynamic (s2.scr.seq.take nLit) ((s2.scr.seq.drop nLit).take nDist) s2

/-- `DynamicHeader()` (44_inflate_blocks R280): HLIT, HDIST, HCLEN, then DYN_HDR. -/
def dynamicHeader (s : State) : Res Unit :=
  (readBits 5 s).bind fun hlit s1 =>
    (readBits 5 s1).bind fun hdist s2 =>
      (readBits 4 s2).bind fun hclen s3 =>
        elemDynHdr (BitVec.ofNat 5 hlit) (BitVec.ofNat 5 hdist) (BitVec.ofNat 4 hclen) s3

/-! ## Block header -/

/-- Write the last-block flag from BFINAL (44_inflate_blocks R271). -/
def State.setLast (b : Bool) (s : State) : State := { s with last := b }

/-- BLOCK_STORED (44_inflate_blocks R271, R274). -/
def elemBlockStored (bfinal : Bool) (s : State) : Res Unit := storedHeader (s.setLast bfinal)

/-- BLOCK_FIXED (44_inflate_blocks R271, R278). -/
def elemBlockFixed (bfinal : Bool) (s : State) : Res Unit := fixedInstall (s.setLast bfinal)

/-- BLOCK_DYNAMIC (44_inflate_blocks R271, R280). -/
def elemBlockDynamic (bfinal : Bool) (s : State) : Res Unit := dynamicHeader (s.setLast bfinal)

/-- BLOCK_RESERVED (44_inflate_blocks R273): `last` holds BFINAL, `eng` stays. -/
def elemBlockReserved (bfinal : Bool) (s : State) : Res Unit := .raised .malformedBlockType (s.setLast bfinal)

/-- BTYPE dispatch (44_inflate_blocks R271). -/
def blockElem (bfinal : Bool) (btype : Nat) (s : State) : Res Unit :=
  match btype with
  | 0 => elemBlockStored bfinal s
  | 1 => elemBlockFixed bfinal s
  | 2 => elemBlockDynamic bfinal s
  | _ => elemBlockReserved bfinal s

/-- `BlockHeader()` (44_inflate_blocks R271): `last` is written before BTYPE is read. -/
def blockHeader (s : State) : Res Unit :=
  (readBit s).bind fun bfinal s1 =>
    (readBits 2 (s1.setLast bfinal)).bind fun btype s2 => blockElem bfinal btype s2

/-! ## The instructions -/

/-- BLOCK_STORED as an instruction. -/
def execBlockStored (bfinal : Bool) (s : State) : StepResult := (elemBlockStored bfinal s).finish
/-- BLOCK_FIXED as an instruction. -/
def execBlockFixed (bfinal : Bool) (s : State) : StepResult := (elemBlockFixed bfinal s).finish
/-- BLOCK_DYNAMIC as an instruction. -/
def execBlockDynamic (bfinal : Bool) (s : State) : StepResult := (elemBlockDynamic bfinal s).finish
/-- BLOCK_RESERVED as an instruction. -/
def execBlockReserved (bfinal : Bool) (s : State) : StepResult := (elemBlockReserved bfinal s).finish
/-- STORED_HDR as an instruction. -/
def execStoredHdr (len nlen : BitVec 16) (s : State) : StepResult := (elemStoredHdr len nlen s).finish
/-- STORED_BYTE as an instruction. -/
def execStoredByte (b : Byte) (s : State) : StepResult := (elemStoredByte b s).finish
/-- DYN_HDR as an instruction. -/
def execDynHdr (hlit hdist : BitVec 5) (hclen : BitVec 4) (s : State) : StepResult := (elemDynHdr hlit hdist hclen s).finish
/-- CL_LEN as an instruction. -/
def execClLen (l : BitVec 4) (s : State) : StepResult := (elemClLen l s).finish
/-- CL_REP16 as an instruction. -/
def execClRep16 (s : State) : StepResult := (elemClRep16 s).finish
/-- CL_REP17 as an instruction. -/
def execClRep17 (s : State) : StepResult := (elemClRep17 s).finish
/-- CL_REP18 as an instruction. -/
def execClRep18 (s : State) : StepResult := (elemClRep18 s).finish

end Sys2Proof.Machine
end

