-- ==== Sys2Proof/Machine/Checksum.lean ====
section
/-! DEFINITION. The checksum collaborator as a function of the emitted bytes (10_state R48). The standard algorithms are those of 93 G11 (log 15, log 20). -/

namespace Sys2Proof.Machine

open Sys2Proof

/-- One bit of the reflected CRC-32, polynomial 0xEDB88320 (93 G11). -/
def crcBit (c : Word) : Word :=
  if c.getLsbD 0 then (c >>> 1) ^^^ 0xEDB88320 else c >>> 1

/-- One byte into the CRC register. -/
def crcByte (c : Word) (b : Byte) : Word :=
  (List.range 8).foldl (fun c _ => crcBit c) (c ^^^ b.setWidth 32)

/-- The standard CRC-32: initial value and final XOR 0xFFFFFFFF (93 G11). -/
def crc32 (bytes : List Byte) : Word := (bytes.foldl crcByte 0xFFFFFFFF) ^^^ 0xFFFFFFFF

/-- The two sums of Adler-32, modulus 65521 (93 G11). -/
def adlerSums (bytes : List Byte) : Nat × Nat :=
  bytes.foldl (fun p b => ((p.1 + b.toNat) % 65521, (p.2 + p.1 + b.toNat) % 65521)) (1, 0)

/-- The standard Adler-32, initial value 1 (93 G11). -/
def adler32 (bytes : List Byte) : Word :=
  BitVec.ofNat 32 ((adlerSums bytes).2 * 65536 + (adlerSums bytes).1)

/-- `CRC32_FN` (00_scope R10). -/
def crc32Fn (p : ChecksumParam) (bytes : List Byte) : Word :=
  match p with
  | .standard => crc32 bytes
  | .other => Config.otherCrc32 bytes

/-- `ADLER32_FN` (00_scope R10). -/
def adler32Fn (p : ChecksumParam) (bytes : List Byte) : Word :=
  match p with
  | .standard => adler32 bytes
  | .other => Config.otherAdler32 bytes

/-- `getAsInt()` of the collaborator: `CK(out)`, and 0 for raw (10_state R48). -/
def State.checksum (s : State) : Word :=
  match s.frame with
  | .raw => 0
  | .zlib => adler32Fn s.ckParam s.out
  | .gzip => crc32Fn s.ckParam s.out

end Sys2Proof.Machine
end

