-- ==== Sys2Proof/Machine/Frames.lean ====
section
/-! DEFINITION. The frame parser (46_frame_parser.md): zlib and gzip headers and trailers, and the end of data. -/

namespace Sys2Proof.Machine

open Sys2Proof

/-! ## zlib header -/

/-- ZLIB_HDR (46_frame_parser R402 to R408), once both bytes have been read. -/
def elemZlibHdr (h : BitVec 16) (s : State) : Res Unit :=
  if zlibHeaderOk h then .ok () (s.createWindow (zlibWindow h)) else .raised .compressAlgorithmError s

/-- `ZlibHeader()` (46_frame_parser R402). -/
def zlibHeader (s : State) : Res Unit :=
  (readAlignedByte s).bind fun cmf s1 =>
    (readAlignedByte s1).bind fun flg s2 => elemZlibHdr (zlibValue cmf flg) s2

/-! ## gzip header -/

/-- Skip `n` bytes (46_frame_parser R413, R414, R417). -/
def skipBytes : Nat → State → Res Unit
  | 0, s => .ok () s
  | n + 1, s => (readAlignedByte s).bind fun _ s1 => skipBytes n s1

/-- Skip bytes up to and including the first 0x00 (46_frame_parser R415). Each byte is pulled from the source, so a bound above
the bytes left is never used up (log 17). -/
def skipString : Nat → State → Res Unit
  | 0, _ => .refused .boundExhausted
  | n + 1, s => (readAlignedByte s).bind fun b s1 => if b = 0 then .ok () s1 else skipString n s1

/-- A bound on the bytes a string of the header can have: those not yet pulled, and one. -/
def State.stringBound (s : State) : Nat := s.src.length - s.bc.next + 1

/-- FEXTRA: XLEN, little-endian, and XLEN bytes (46_frame_parser R414). -/
def skipExtra (s : State) : Res Unit :=
  (readBytes 2 s).bind fun xlen s1 => skipBytes (leValue xlen) s1

/-- An optional field of the gzip header, present when its flag bit is set. -/
def optionalField (present : Bool) (skip : State → Res Unit) (s : State) : Res Unit :=
  if present then skip s else .ok () s

/-- The gzip header after its FLG byte (46_frame_parser R413 to R417): six fixed bytes, then extra field, name, comment and
header CRC, each when its flag is set. -/
def gzipFields (flg : Byte) (s : State) : Res Unit :=
  (skipBytes 6 s).bind fun _ s1 =>
    (optionalField (gzipFEXTRA flg) skipExtra s1).bind fun _ s2 =>
      (optionalField (gzipFNAME flg) (fun s => skipString s.stringBound s) s2).bind fun _ s3 =>
        (optionalField (gzipFCOMMENT flg) (fun s => skipString s.stringBound s) s3).bind fun _ s4 =>
          optionalField (gzipFHCRC flg) (skipBytes 2) s4

/-- GZIP_HDR (46_frame_parser R410 to R418), once its first four bytes have been read. -/
def elemGzipHdr (start : BitVec 32) (s : State) : Res Unit :=
  if gzipByteOk 0 (gzipByte start 0) && gzipByteOk 1 (gzipByte start 1) && gzipByteOk 2 (gzipByte start 2)
      && gzipByteOk 3 (gzipByte start 3) then
    gzipFields (gzipByte start 3) s
  else .raised .compressAlgorithmError s

/-- Read one header byte and check it at once (46_frame_parser R410). -/
def checkedByte (k : Nat) (s : State) : Res Byte :=
  (readAlignedByte s).bind fun b s1 => if gzipByteOk k b then .ok b s1 else .raised .compressAlgorithmError s1

/-- `GzipHeader()` (46_frame_parser R410): each of the first four bytes is checked as it is read, then GZIP_HDR (log 22). -/
def gzipHeader (s : State) : Res Unit :=
  (checkedByte 0 s).bind fun b0 s1 =>
    (checkedByte 1 s1).bind fun b1 s2 =>
      (checkedByte 2 s2).bind fun b2 s3 =>
        (checkedByte 3 s3).bind fun b3 s4 => elemGzipHdr (BitVec.ofNat 32 (leValue [b0, b1, b2, b3])) s4

/-! ## Trailers -/

/-- ZLIB_TRL (46_frame_parser R421), once its four bytes have been read. -/
def elemZlibTrl (adler : Word) (s : State) : Res Unit :=
  if adler = adler32Fn s.ckParam s.out then .ok () { s with trail := adler }
  else .raised .compressAlgorithmError { s with trail := adler }

/-- `ZlibTrailer()` (46_frame_parser R421): big-endian. -/
def zlibTrailer (s : State) : Res Unit :=
  (readBytes 4 s).bind fun t s1 => elemZlibTrl (BitVec.ofNat 32 (beValue 0 t)) s1

/-- GZIP_TRL (46_frame_parser R422), once its eight bytes have been read. -/
def elemGzipTrl (crc isize : Word) (s : State) : Res Unit :=
  if crc = crc32Fn s.ckParam s.out ∧ isize = s.outCount then .ok () { s with trail := crc }
  else .raised .compressAlgorithmError { s with trail := crc }

/-- `GzipTrailer()` (46_frame_parser R422): both fields little-endian. -/
def gzipTrailer (s : State) : Res Unit :=
  (readBytes 8 s).bind fun t s1 =>
    elemGzipTrl (BitVec.ofNat 32 (leValue (t.take 4))) (BitVec.ofNat 32 (leValue (t.drop 4))) s1

/-! ## The frame around the payload -/

/-- The header of a frame; raw has none (46_frame_parser R401). -/
def headerOf (f : Frame) (s : State) : Res Unit :=
  match f with
  | .raw => .ok () s
  | .zlib => zlibHeader s
  | .gzip => gzipHeader s

/-- `FrameHeader()` (46_frame_parser R400). -/
def frameHeader (s : State) : Res Unit :=
  (headerOf s.frame s).bind fun _ s1 => .ok () { s1 with phase := .body }

/-- The entry of a trailer (46_frame_parser R400, R420): align, and TrailingBytes. -/
def State.enterTrailer (s : State) : State :=
  { { s with phase := .trailer }.align with eng := .trailingBytes }

/-- The trailer of a frame, entered aligned; raw has none (46_frame_parser R424). -/
def trailerOf (f : Frame) (s : State) : Res Unit :=
  match f with
  | .raw => .ok () s
  | .zlib => zlibTrailer s.enterTrailer
  | .gzip => gzipTrailer s.enterTrailer

/-- `FrameEnd()` (46_frame_parser R400, R423, R424). -/
def frameEnd (s : State) : Res Unit :=
  (trailerOf s.frame s).bind fun _ s1 => .ok () { s1 with phase := .done }

/-! ## The instructions -/

/-- ZLIB_HDR as an instruction. -/
def execZlibHdr (h : BitVec 16) (s : State) : StepResult := (elemZlibHdr h s).finish
/-- GZIP_HDR as an instruction. -/
def execGzipHdr (start : BitVec 32) (s : State) : StepResult := (elemGzipHdr start s).finish
/-- ZLIB_TRL as an instruction. -/
def execZlibTrl (adler : Word) (s : State) : StepResult := (elemZlibTrl adler s).finish
/-- GZIP_TRL as an instruction. -/
def execGzipTrl (crc isize : Word) (s : State) : StepResult := (elemGzipTrl crc isize s).finish

end Sys2Proof.Machine
end

