-- ==== Sys2Proof/Machine/Engine.lean ====
section
/-! DEFINITION. The engine's produce loop (44_inflate_blocks R270). -/

namespace Sys2Proof.Machine

open Sys2Proof

/-- A bound on the passes of `Produce` (44_inflate_blocks R293, 47_host_commands R460): each pass but the last consumes a stream
bit, or ends a stored block and is followed by one that does. No state uses it up (log 17). -/
def State.produceBound (s : State) : Nat := 16 * s.src.length + 32

/-- One pass of `Produce` (44_inflate_blocks R270). `some r` is what Produce returns, a byte or EndOfPayload (`none`), and `none`
is another pass. -/
def producePass (s : State) : Res (Option (Option Byte)) :=
  match s.eng with
  | .blockFree => (blockHeader s).bind fun _ s1 => .ok none s1
  | .stored =>
    if s.storedRem = 0 then .ok none s.blockEnd
    else (storedByte s).bind fun b s1 => .ok (some (some b)) s1
  | .fixedHuffman | .dynamicHuffman =>
    (huffStep s).bind fun r s1 =>
      match r with
      | some b => .ok (some (some b)) s1
      | none => .ok none s1
  | .lastBlockFree => .ok (some none) s
  | .trailingBits | .trailingBytes => .refused .engineContext

/-- `Produce()` with a bound on its passes: the next decoded byte, or `none` for EndOfPayload (44_inflate_blocks R270). -/
def produce : Nat → State → Res (Option Byte)
  | 0, _ => .refused .boundExhausted
  | n + 1, s =>
    (producePass s).bind fun r s1 =>
      match r with
      | some x => .ok x s1
      | none => produce n s1

end Sys2Proof.Machine
end

