-- ==== Sys2Proof/Machine/Flags.lean ====
section
/-! DEFINITION. The status and flag words the host reads, and the register window (10_state R60 to R73). -/

namespace Sys2Proof.Machine

open Sys2Proof

/-- The code of a phase (10_state R32). -/
def Phase.code : Phase → Nat
  | .idle => 0 | .header => 1 | .body => 2 | .trailer => 3 | .done => 4 | .failed => 5 | .released => 6

/-- The code of an engine state (10_state R33). -/
def Eng.code : Eng → Nat
  | .blockFree => 0 | .stored => 1 | .fixedHuffman => 2 | .dynamicHuffman => 3
  | .lastBlockFree => 4 | .trailingBits => 5 | .trailingBytes => 6

/-- The code of a frame (10_state R35, R64). -/
def Frame.code : Frame → Nat
  | .raw => 0 | .zlib => 1 | .gzip => 2

/-- The frame a FRAME field names; 3 names none (10_state R64). -/
def Frame.ofCode : Nat → Option Frame
  | 0 => some .raw
  | 1 => some .zlib
  | 2 => some .gzip
  | _ => none

/-- The CODE of a reject reason (47_host_commands R442). -/
def RejectReason.code : RejectReason → Nat
  | .badCmd => 1 | .badState => 2 | .badArg => 3

/-- The word `KIND << 8 | CODE << 12 | DATA` (10_state R63, 47_host_commands R441). -/
def Resp.fields (kind code data : Nat) : Word := BitVec.ofNat 32 (data + kind <<< 8 + code <<< 12)

/-- The response word (10_state R63). -/
def Resp.word : Resp → Word
  | .none => Resp.fields 0 0 0
  | .ok => Resp.fields 1 0 0
  | .data v => Resp.fields 2 0 v.toNat
  | .eod => Resp.fields 3 0 0
  | .error c => Resp.fields 4 c 0
  | .reject r => Resp.fields 5 r.code 0

/-- STATUS.PEND: a copy is outstanding (10_state R45, R65). -/
def State.pend (s : State) : Bool := decide (0 < s.pendLen)

/-- The STATUS word (10_state R65). -/
def State.statusWord (s : State) : Word :=
  BitVec.ofNat 32 (s.phase.code + s.eng.code <<< 4 + s.last.toNat <<< 7 + s.win.acq.toNat <<< 8
    + s.frame.code <<< 9 + s.pend.toNat <<< 11)

/-- The BITPOS word (10_state R71). -/
def State.bitposWord (s : State) : Word := BitVec.ofNat 32 (s.bc.pos.val + s.avail <<< 4)

/-- The CHECKSUM word: 0 in phase Idle (10_state R72). -/
def State.checksumWord (s : State) : Word := if s.phase = .idle then 0 else s.checksum

/-- A read of the register window (10_state R60, R61): no side effect, and 0 at CTRL and at every offset not in the map. -/
def readReg (off : Nat) (s : State) : Word :=
  match off with
  | 0x04 => s.resp.word
  | 0x08 => s.statusWord
  | 0x0C => BitVec.ofNat 32 (errCode s.err)
  | 0x10 => BitVec.ofNat 32 s.cfgFrame.code
  | 0x14 => s.maxDistReg.setWidth 32
  | 0x18 => BitVec.ofNat 32 s.win.maxDist
  | 0x1C => s.outCount
  | 0x20 => BitVec.ofNat 32 s.bc.next
  | 0x24 => s.bitposWord
  | 0x28 => s.checksumWord
  | 0x2C => s.trail
  | _ => 0

/-- CONFIG and MAXDIST can be written only in Idle and Released (10_state R64, R67, 47_host_commands R453). -/
def State.configurable (s : State) : Bool := s.phase == .idle || s.phase == .released

/-- A write of CONFIG (10_state R64): 3 and a write in another phase leave FRAME as it is; bits 31:2 are ignored. -/
def writeConfig (v : Word) (s : State) : State :=
  match Frame.ofCode (v.extractLsb' 0 2).toNat with
  | some f => if s.configurable then { s with cfgFrame := f } else s
  | none => s

/-- The legal values of MAXDIST (10_state R67). -/
def maxDistLegal (v : BitVec 16) : Bool := decide (1 ≤ v.toNat) && decide (v.toNat ≤ 0x8000)

/-- A write of MAXDIST (10_state R67): the value is `MAXDIST[15:0]`, and the reserved bits 31:16 are ignored (93 I17, log 23).
An illegal value and a write in another phase leave it as it is. -/
def writeMaxDist (v : Word) (s : State) : State :=
  if maxDistLegal (v.setWidth 16) && s.configurable then { s with maxDistReg := v.setWidth 16 } else s

/-- A write at an offset other than CTRL's: CONFIG, MAXDIST, or ignored (10_state R60). -/
def writeReg (off : Nat) (v : Word) (s : State) : State :=
  match off with
  | 0x10 => writeConfig v s
  | 0x14 => writeMaxDist v s
  | _ => s

end Sys2Proof.Machine
end

