-- ==== Sys2Proof/Machine/Commands.lean ====
section
/-! DEFINITION. The host commands (47_host_commands.md R440 to R452). ARG is read by GET_BIT only (10_state R62). -/

namespace Sys2Proof.Machine

open Sys2Proof

/-- A command that changed nothing but the state it answers in: the step ends with its response. -/
def answer (r : Resp) (s : State) : StepResult := .next (s.respond r)

/-- A rejected command (47_host_commands R442). -/
def rejected (r : RejectReason) (s : State) : StepResult := .next (s.reject r)

/-- NOP (47_host_commands R444). -/
def execNop (_arg : BitVec 24) (s : State) : StepResult := answer .ok s

/-- Where START is legal (47_host_commands R440, R445). -/
def State.canStart (s : State) : Bool := s.phase == .idle || s.phase == .released

/-- The window START creates (47_host_commands R445): MAXDIST for raw and gzip. -/
def startWindow (s : State) : Nat := if s.cfgFrame = .zlib then Config.windowCapacity else s.maxDistReg.toNat

/-- The session START opens (47_host_commands R445, 10_state R74), over the source the host has made available (log 6). -/
def State.openSession (s : State) : State :=
  { s.createWindow (startWindow s) with
    phase := if s.cfgFrame = .raw then .body else .header
    frame := s.cfgFrame
    eng := .blockFree
    last := false
    storedRem := 0
    bc := BitCursor.reset
    llLen := List.replicate 288 0
    llN := 0
    dLen := List.replicate 32 0
    dN := 0
    pendLen := 0
    pendDist := 0
    out := []
    outCount := 0
    err := none
    trail := 0
    src := s.supply }

/-- START (47_host_commands R445). -/
def execStart (_arg : BitVec 24) (s : State) : StepResult :=
  if s.canStart then answer .ok s.openSession else rejected .badState s

/-- READ's header part: the frame header in phase Header (47_host_commands R446). -/
def readHeader (s : State) : Res Unit := if s.phase = .header then frameHeader s else .ok () s

/-- READ's last part: a byte, or the end of the frame and EOD (47_host_commands R446). -/
def readEnd (r : Option Byte) (s : State) : Res Unit :=
  match r with
  | some b => .ok () (s.respond (.data b))
  | none => (frameEnd s).bind fun _ s1 => .ok () (s1.respond .eod)

/-- READ in Header or Body (47_host_commands R446). -/
def readBody (s : State) : Res Unit :=
  (readHeader s).bind fun _ s1 => (produce s1.produceBound s1).bind fun r s2 => readEnd r s2

/-- READ (47_host_commands R446). -/
def execRead (_arg : BitVec 24) (s : State) : StepResult :=
  match s.phase with
  | .idle | .released | .trailer => rejected .badState s
  | .failed => answer (.error (errCode s.err)) s
  | .done => answer .eod s
  | .header | .body => (readBody s).finish

/-- Where the trailing modes may be entered (47_host_commands R440, R447). -/
def State.canEnterTrailing (s : State) : Bool :=
  s.phase == .done && (s.eng == .lastBlockFree || s.eng == .trailingBits || s.eng == .trailingBytes)

/-- `EnterTrailingBits()` (46_frame_parser R425): no bit is discarded. -/
def State.enterTrailingBits (s : State) : State := { s with eng := .trailingBits }

/-- `EnterTrailingBytes()` (46_frame_parser R426): the rest of a partial byte is discarded. -/
def State.enterTrailingBytes (s : State) : State := { s.align with eng := .trailingBytes }

/-- ENTER_TRAILING_BITS (47_host_commands R447). -/
def execEnterTrailingBits (_arg : BitVec 24) (s : State) : StepResult :=
  if s.canEnterTrailing then answer .ok s.enterTrailingBits else rejected .badState s

/-- ENTER_TRAILING_BYTES (47_host_commands R448). -/
def execEnterTrailingBytes (_arg : BitVec 24) (s : State) : StepResult :=
  if s.canEnterTrailing then answer .ok s.enterTrailingBytes else rejected .badState s

/-- Where READ_TRAIL_BIT and GET_BIT are legal (47_host_commands R440). -/
def State.inTrailingBits (s : State) : Bool := s.phase == .done && s.eng == .trailingBits

/-- Where READ_TRAIL_BYTE is legal (47_host_commands R440). -/
def State.inTrailingBytes (s : State) : Bool := s.phase == .done && s.eng == .trailingBytes

/-- A bit as response data (47_host_commands R441). -/
def bitByte (b : Bool) : Byte := if b then 1 else 0

/-- READ_TRAIL_BIT (47_host_commands R449, 46_frame_parser R425). -/
def execReadTrailBit (_arg : BitVec 24) (s : State) : StepResult :=
  if s.inTrailingBits then
    ((readBit s).bind fun b s1 => .ok () (s1.respond (.data (bitByte b)))).finish
  else rejected .badState s

/-- READ_TRAIL_BYTE (47_host_commands R450, 46_frame_parser R426). -/
def execReadTrailByte (_arg : BitVec 24) (s : State) : StepResult :=
  if s.inTrailingBytes then
    ((readAlignedByte s).bind fun b s1 => .ok () (s1.respond (.data b))).finish
  else rejected .badState s

/-- GET_BIT (47_host_commands R451): ARG is the index; nothing is consumed and nothing pulled. -/
def execGetBit (arg : BitVec 24) (s : State) : StepResult :=
  if s.inTrailingBits then
    match peekBit arg.toNat s with
    | some b => answer (.data (bitByte b)) s
    | none => rejected .badArg s
  else rejected .badState s

/-- RELEASE (47_host_commands R452): legal in every phase; DATA is 1 when the window was held. -/
def execRelease (_arg : BitVec 24) (s : State) : StepResult :=
  answer (.data (bitByte s.win.acq)) s.releaseWindow.endSession

/-! ## Reserved commands (47_host_commands R442): rejected with BAD_CMD -/

/-- CMD 0x09. -/
def execCmdReserved0909 (_arg : BitVec 24) (s : State) : StepResult := rejected .badCmd s
/-- CMD 0x0A and 0x0B. -/
def execCmdReserved0A0B (_low : BitVec 1) (_arg : BitVec 24) (s : State) : StepResult := rejected .badCmd s
/-- CMD 0x0C to 0x0F. -/
def execCmdReserved0C0F (_low : BitVec 2) (_arg : BitVec 24) (s : State) : StepResult := rejected .badCmd s
/-- CMD 0x10 to 0x1F. -/
def execCmdReserved101F (_low : BitVec 4) (_arg : BitVec 24) (s : State) : StepResult := rejected .badCmd s
/-- CMD 0x20 to 0x3F. -/
def execCmdReserved203F (_low : BitVec 5) (_arg : BitVec 24) (s : State) : StepResult := rejected .badCmd s
/-- CMD 0x40 to 0x7F. -/
def execCmdReserved407F (_low : BitVec 6) (_arg : BitVec 24) (s : State) : StepResult := rejected .badCmd s
/-- CMD 0x80 to 0xFF. -/
def execCmdReserved80FF (_low : BitVec 7) (_arg : BitVec 24) (s : State) : StepResult := rejected .badCmd s

end Sys2Proof.Machine
end

