-- ==== Sys2Proof/Machine/MicroOps.lean ====
section
/-! DEFINITION. The micro-operations as steps of their own (30_encoding R123): each runs its operation and leaves its result in `ret` (log 7). -/

namespace Sys2Proof.Machine

open Sys2Proof

/-- The state with the result of a micro-operation. -/
def State.setRet (r : Ret) (s : State) : State := { s with ret := r }

/-- The end of a micro-operation: its result is returned, a raised error is latched (00_scope R17). DEDUCED: that is so in every phase,
Failed included, where R490 has no command run one (log 27). -/
def returning {α : Type} (r : Res α) (f : α → Ret) : StepResult :=
  (r.bind fun a s => .ok () (s.setRet (f a))).finish

/-- BC_READ_BIT (40_bit_cursor R161). -/
def execBcReadBit (s : State) : StepResult := returning (readBit s) Ret.bit

/-- BC_READ_BITS (40_bit_cursor R162, R166, R167). -/
def execBcReadBits (n : Nat) (s : State) : StepResult := returning (readBits n s) Ret.value

/-- BC_ALIGN (40_bit_cursor R163). -/
def execBcAlign (s : State) : StepResult := .next (s.align.setRet .none)

/-- BC_READ_ALIGNED_BYTE (40_bit_cursor R164). -/
def execBcReadAlignedByte (s : State) : StepResult := returning (readAlignedByte s) Ret.byte

/-- BC_GET_BIT (40_bit_cursor R168): beyond the residue it rejects with BAD_ARG (log 12). -/
def execBcGetBit (i : Nat) (s : State) : StepResult :=
  match peekBit i s with
  | some b => .next (s.setRet (.bit b))
  | none => .next (s.reject .badArg)

/-- HUF_BUILD (41_canonical_huffman R180). -/
def execHufBuild (lengths : List Nat) (s : State) : StepResult :=
  returning (withTable lengths s fun t => .ok t s) Ret.table

/-- HUF_DECODE (42_symbol_resolver R210, R211), under the table its lengths build (log 11). -/
def execHufDecode (lengths : List Nat) (s : State) : StepResult :=
  returning (withTable lengths s fun t => resolve t s) Ret.symbol

/-- WIN_CREATE (43_sliding_window R231). -/
def execWinCreate (m : Nat) (s : State) : StepResult :=
  if 1 ≤ m ∧ m ≤ Config.windowCapacity then .next ((s.createWindow m).setRet .none) else .refused .windowCapOutOfRange

/-- WIN_PUT (43_sliding_window R233). -/
def execWinPut (b : Byte) (s : State) : StepResult := returning (winPut b s) fun _ => Ret.none

/-- WIN_PUT_BULK (43_sliding_window R238). -/
def execWinPutBulk (maxLen : Nat) (bytes : List Byte) (s : State) : StepResult :=
  returning (winPutBulk maxLen bytes s) Ret.count

/-- WIN_COPY (43_sliding_window R237). -/
def execWinCopy (d : Nat) (s : State) : StepResult := returning (winCopy d s) Ret.byte

/-- WIN_COPY_BULK (43_sliding_window R240): `countCopied` is maxLen. -/
def execWinCopyBulk (d maxLen : Nat) (s : State) : StepResult :=
  returning (winCopyBulk d maxLen s) (Ret.copied maxLen)

/-- WIN_AVAILABLE (43_sliding_window R241, R244). -/
def execWinAvailable (s : State) : StepResult := .next (s.setRet (.distance s.win.maxDist))

/-- WIN_CLEAR (43_sliding_window R232). DEDUCED: it runs on a window that is not held too (log 29), as R244 names only puts and copies. -/
def execWinClear (s : State) : StepResult := .next (s.clearWindow.setRet .none)

/-- WIN_RELEASE (43_sliding_window R243). -/
def execWinRelease (s : State) : StepResult := .next (s.releaseWindow.setRet (.flag s.win.acq))

/-- Whether `WinSetCap(m)` lowers the cap (43_sliding_window R242). -/
def Window.mayLower (w : Window) (m : Nat) : Bool := decide (1 ≤ m) && decide (m ≤ w.maxDist)

/-- The state with the window's cap lowered (43_sliding_window R242). -/
def State.lowerCap (m : Nat) (s : State) : State := { s with win := { s.win with maxDist := m } }

/-- WIN_SET_CAP (43_sliding_window R242): downward only. DEDUCED: it runs on a window that is not held too (log 29), as R244 names only
puts and copies. -/
def execWinSetCap (m : Nat) (s : State) : StepResult :=
  if s.win.mayLower m then .next ((s.lowerCap m).setRet (.flag true)) else .next (s.setRet (.flag false))

end Sys2Proof.Machine
end

