-- ==== Sys2Proof/Machine/Dispatch.lean ====
section
/-! DEFINITION. One arm per instruction: the meaning it has. -/

namespace Sys2Proof.Machine

def exec (i : Instr) (s : State) : Host.Outcome State Fault Refusal :=
  match i with
  | .blockStored a => Sys2Proof.Machine.execBlockStored a s
  | .blockFixed a => Sys2Proof.Machine.execBlockFixed a s
  | .blockDynamic a => Sys2Proof.Machine.execBlockDynamic a s
  | .blockReserved a => Sys2Proof.Machine.execBlockReserved a s
  | .storedHdr a b => Sys2Proof.Machine.execStoredHdr a b s
  | .storedByte a => Sys2Proof.Machine.execStoredByte a s
  | .dynHdr a b c => Sys2Proof.Machine.execDynHdr a b c s
  | .clLen a => Sys2Proof.Machine.execClLen a s
  | .clRep16 => Sys2Proof.Machine.execClRep16 s
  | .clRep17 => Sys2Proof.Machine.execClRep17 s
  | .clRep18 => Sys2Proof.Machine.execClRep18 s
  | .lit a => Sys2Proof.Machine.execLit a s
  | .eob => Sys2Proof.Machine.execEob s
  | .len257 => Sys2Proof.Machine.execLen257 s
  | .len258 => Sys2Proof.Machine.execLen258 s
  | .len259 => Sys2Proof.Machine.execLen259 s
  | .len260 => Sys2Proof.Machine.execLen260 s
  | .len261 => Sys2Proof.Machine.execLen261 s
  | .len262 => Sys2Proof.Machine.execLen262 s
  | .len263 => Sys2Proof.Machine.execLen263 s
  | .len264 => Sys2Proof.Machine.execLen264 s
  | .len265 => Sys2Proof.Machine.execLen265 s
  | .len266 => Sys2Proof.Machine.execLen266 s
  | .len267 => Sys2Proof.Machine.execLen267 s
  | .len268 => Sys2Proof.Machine.execLen268 s
  | .len269 => Sys2Proof.Machine.execLen269 s
  | .len270 => Sys2Proof.Machine.execLen270 s
  | .len271 => Sys2Proof.Machine.execLen271 s
  | .len272 => Sys2Proof.Machine.execLen272 s
  | .len273 => Sys2Proof.Machine.execLen273 s
  | .len274 => Sys2Proof.Machine.execLen274 s
  | .len275 => Sys2Proof.Machine.execLen275 s
  | .len276 => Sys2Proof.Machine.execLen276 s
  | .len277 => Sys2Proof.Machine.execLen277 s
  | .len278 => Sys2Proof.Machine.execLen278 s
  | .len279 => Sys2Proof.Machine.execLen279 s
  | .len280 => Sys2Proof.Machine.execLen280 s
  | .len281 => Sys2Proof.Machine.execLen281 s
  | .len282 => Sys2Proof.Machine.execLen282 s
  | .len283 => Sys2Proof.Machine.execLen283 s
  | .len284 => Sys2Proof.Machine.execLen284 s
  | .len285 => Sys2Proof.Machine.execLen285 s
  | .litlenInvalid a => Sys2Proof.Machine.execLitlenInvalid a s
  | .dist0 => Sys2Proof.Machine.execDist0 s
  | .dist1 => Sys2Proof.Machine.execDist1 s
  | .dist2 => Sys2Proof.Machine.execDist2 s
  | .dist3 => Sys2Proof.Machine.execDist3 s
  | .dist4 => Sys2Proof.Machine.execDist4 s
  | .dist5 => Sys2Proof.Machine.execDist5 s
  | .dist6 => Sys2Proof.Machine.execDist6 s
  | .dist7 => Sys2Proof.Machine.execDist7 s
  | .dist8 => Sys2Proof.Machine.execDist8 s
  | .dist9 => Sys2Proof.Machine.execDist9 s
  | .dist10 => Sys2Proof.Machine.execDist10 s
  | .dist11 => Sys2Proof.Machine.execDist11 s
  | .dist12 => Sys2Proof.Machine.execDist12 s
  | .dist13 => Sys2Proof.Machine.execDist13 s
  | .dist14 => Sys2Proof.Machine.execDist14 s
  | .dist15 => Sys2Proof.Machine.execDist15 s
  | .dist16 => Sys2Proof.Machine.execDist16 s
  | .dist17 => Sys2Proof.Machine.execDist17 s
  | .dist18 => Sys2Proof.Machine.execDist18 s
  | .dist19 => Sys2Proof.Machine.execDist19 s
  | .dist20 => Sys2Proof.Machine.execDist20 s
  | .dist21 => Sys2Proof.Machine.execDist21 s
  | .dist22 => Sys2Proof.Machine.execDist22 s
  | .dist23 => Sys2Proof.Machine.execDist23 s
  | .dist24 => Sys2Proof.Machine.execDist24 s
  | .dist25 => Sys2Proof.Machine.execDist25 s
  | .dist26 => Sys2Proof.Machine.execDist26 s
  | .dist27 => Sys2Proof.Machine.execDist27 s
  | .dist28 => Sys2Proof.Machine.execDist28 s
  | .dist29 => Sys2Proof.Machine.execDist29 s
  | .distInvalid a => Sys2Proof.Machine.execDistInvalid a s
  | .zlibHdr a => Sys2Proof.Machine.execZlibHdr a s
  | .gzipHdr a => Sys2Proof.Machine.execGzipHdr a s
  | .zlibTrl a => Sys2Proof.Machine.execZlibTrl a s
  | .gzipTrl a b => Sys2Proof.Machine.execGzipTrl a b s
  | .nop a => Sys2Proof.Machine.execNop a s
  | .start a => Sys2Proof.Machine.execStart a s
  | .read a => Sys2Proof.Machine.execRead a s
  | .enterTrailingBits a => Sys2Proof.Machine.execEnterTrailingBits a s
  | .enterTrailingBytes a => Sys2Proof.Machine.execEnterTrailingBytes a s
  | .readTrailBit a => Sys2Proof.Machine.execReadTrailBit a s
  | .readTrailByte a => Sys2Proof.Machine.execReadTrailByte a s
  | .getBit a => Sys2Proof.Machine.execGetBit a s
  | .release a => Sys2Proof.Machine.execRelease a s
  | .cmdReserved0909 a => Sys2Proof.Machine.execCmdReserved0909 a s
  | .cmdReserved0A0B a b => Sys2Proof.Machine.execCmdReserved0A0B a b s
  | .cmdReserved0C0F a b => Sys2Proof.Machine.execCmdReserved0C0F a b s
  | .cmdReserved101F a b => Sys2Proof.Machine.execCmdReserved101F a b s
  | .cmdReserved203F a b => Sys2Proof.Machine.execCmdReserved203F a b s
  | .cmdReserved407F a b => Sys2Proof.Machine.execCmdReserved407F a b s
  | .cmdReserved80FF a b => Sys2Proof.Machine.execCmdReserved80FF a b s
  | .bcReadBit => Sys2Proof.Machine.execBcReadBit s
  | .bcReadBits a => Sys2Proof.Machine.execBcReadBits a s
  | .bcAlign => Sys2Proof.Machine.execBcAlign s
  | .bcReadAlignedByte => Sys2Proof.Machine.execBcReadAlignedByte s
  | .bcGetBit a => Sys2Proof.Machine.execBcGetBit a s
  | .hufBuild a => Sys2Proof.Machine.execHufBuild a s
  | .hufDecode a => Sys2Proof.Machine.execHufDecode a s
  | .winCreate a => Sys2Proof.Machine.execWinCreate a s
  | .winPut a => Sys2Proof.Machine.execWinPut a s
  | .winPutBulk a b => Sys2Proof.Machine.execWinPutBulk a b s
  | .winCopy a => Sys2Proof.Machine.execWinCopy a s
  | .winCopyBulk a b => Sys2Proof.Machine.execWinCopyBulk a b s
  | .winAvailable => Sys2Proof.Machine.execWinAvailable s
  | .winClear => Sys2Proof.Machine.execWinClear s
  | .winRelease => Sys2Proof.Machine.execWinRelease s
  | .winSetCap a => Sys2Proof.Machine.execWinSetCap a s

end Sys2Proof.Machine
end

