-- ==== Sys2Proof/Machine/Fetch.lean ====
section
/-! DEFINITION. Serving the requests a step meets that are no instruction, and the context in which a bare table word is run. -/

namespace Sys2Proof.Machine

open Sys2Proof

/-- A host access the interface has: one whole aligned 32-bit word (10_state R60, 20_memory R89). -/
def wordAccess (off size : Nat) : Bool := size == 4 && off % 4 == 0

/-- The byte offset of CTRL (10_state R61). -/
def ctrlOffset : Nat := 0x00

/-- A host read: the word goes to the host, nothing else changes (10_state R60). -/
def State.serveRead (off : Nat) (s : State) : State := { s with busData := readReg off s }

/-- The host makes a source available for the next START (70_reset_and_hazards R524, log 6). -/
def State.supplySource (bytes : List Byte) (s : State) : State := { s with supply := bytes }

/-- Reset at a command boundary (70_reset_and_hazards R520, R521). What lies outside the block stays: the source made available, the
parameters, what the host will ask next, and what it last read (log 18). -/
def State.resetBlock (s : State) : State :=
  { State.reset with
    supply := s.supply
    distMode := s.distMode
    ckParam := s.ckParam
    queue := s.queue
    busData := s.busData }

/-- The request at the head of the queue taken off it. -/
def State.withQueue (rest : List Request) (s : State) : State := { s with queue := rest }

/-- An open session in which an element or a micro-operation given as a bare table word can run: the bits that follow it in the
stream are zeros, and what its rule takes from the elements before it is there (log 5). -/
def State.elementContext (f : Format) (s : State) : State :=
  let s1 := s.installTables fixedLitlenLengths fixedDistLengths
  { s1 with
    phase := .body
    eng :=
      match f with
      | .storedByte => .stored
      | .litlenSym | .distSym => .fixedHuffman
      | _ => .blockFree
    storedRem := if f = .storedByte then 1 else 0
    bc := BitCursor.reset
    win := { s.win with acq := true }
    scr := { nLit := 257, nDist := 1, clLen := List.replicate Config.clSymbols 0, seq := [0], len := 3 }
    src := List.replicate 64 0 }

/-- The state in which `step` fetches a given word next. -/
def State.placeWord (iw : InstrWord) (s : State) : State :=
  if iw.fmt = .hostCmd then s.withQueue (.write ctrlOffset 4 (BitVec.ofNat 32 iw.bits) :: s.queue)
  else (s.elementContext iw.fmt).withQueue (.instr iw :: s.queue)

end Sys2Proof.Machine
end

