-- ==== Sys2Proof/Machine/Step.lean ====
section
/-! DEFINITION. One step of the block: the next request is served to completion (10_state R62, 20_memory R95, log 1). -/

namespace Sys2Proof.Machine

open Sys2Proof

/-- Run the instruction a word stands for; a word that is none is refused (log 26). -/
def runWord (w : InstrWord) (s : State) : Host.Outcome State Fault Refusal :=
  match decode w with
  | .ok i => exec i s
  | .error _ => .refused .noInstruction

/-- Serve one request (10_state R60, R62, 20_memory R89, 70_reset_and_hazards R520, R524). -/
def serve (r : Request) (s : State) : Host.Outcome State Fault Refusal :=
  match r with
  | .write off size v =>
    if wordAccess off size then
      if off = ctrlOffset then runWord (.plain .hostCmd v.toNat) s else .next (writeReg off v s)
    else .refused .hostAccessNotWord
  | .read off size => if wordAccess off size then .next (s.serveRead off) else .refused .hostAccessNotWord
  | .supply bytes => .next (s.supplySource bytes)
  | .reset => .next s.resetBlock
  | .instr w => runWord w s

/-- One step: the oldest request. With none, the block waits for one (70_reset_and_hazards R522). -/
def step (s : State) : Host.Outcome State Fault Refusal :=
  match s.queue with
  | [] => .next s
  | r :: rest => serve r (s.withQueue rest)

/-- The state in which the very next step runs the instruction of a bare table word (log 4, log 5). -/
def State.withFetchWord (s : State) (nbits w : Nat) : State :=
  match tableWord nbits w with
  | some iw => s.placeWord iw
  | none => s

end Sys2Proof.Machine
end

