-- ==== Sys2Proof/Safety.lean ====
section
/-! DEFINITION. The terms claims are stated in: the stream as bits, the spec's tables and state conditions, what an instruction may write, and the invariants of a run. -/

namespace Sys2Proof.Machine

open Sys2Proof

/-! ## The stream as a list of bits -/

/-- The bits of a byte in stream order (20_memory R82). -/
def byteBits (b : Byte) : List Bool := (List.range 8).map fun i => b.getLsbD i

/-- The stream bits not yet consumed: the rest of the buffered byte, then the bytes not yet pulled (00_scope R13, 10_state R40). -/
def State.upcoming (s : State) : List Bool :=
  (byteBits s.bc.cur).drop s.bc.pos.val ++ (s.src.drop s.bc.next).flatMap byteBits

/-- The number of bits whose first is bit 0 (20_memory R83). -/
def bitsValue : List Bool → Nat
  | [] => 0
  | b :: bs => b.toNat + 2 * bitsValue bs

/-- What a rule reads off a bit list: a value and the bits after it, or the error it raises and the bits not consumed when it does
(00_scope R16). -/
inductive Scan (α : Type) where
  | good (a : α) (rest : List Bool)
  | bad (e : StreamError) (rest : List Bool)
  deriving DecidableEq, Repr

/-- Go on reading after a rule that has not raised. -/
def Scan.bind {α β : Type} (r : Scan α) (k : α → List Bool → Scan β) : Scan β :=
  match r with
  | .good a rest => k a rest
  | .bad e rest => .bad e rest

/-- A fixed-width field at the head of a bit list; a list that ends in it is all consumed (40_bit_cursor R162, R165). -/
def takeBits (n : Nat) (bits : List Bool) : Scan Nat :=
  if n ≤ bits.length then .good (bitsValue (bits.take n)) (bits.drop n) else .bad .unexpectedEndOfStream []

/-- `Decode(T)` on a bit list (42_symbol_resolver R211, R212, R215), from a candidate of `L` bits and value `c` with `n` more to try. -/
def decodeBits (codes : List Code) : Nat → Nat → Nat → List Bool → Scan Nat
  | 0, _, _, bits => .bad .malformedHuffmanStream bits
  | _ + 1, _, _, [] => .bad .unexpectedEndOfStream []
  | n + 1, L, c, b :: bits =>
    match findCode codes (L + 1) (c * 2 + b.toNat) with
    | some e => .good e.sym bits
    | none => decodeBits codes n (L + 1) (c * 2 + b.toNat) bits

/-- A symbol under a table, at the head of a bit list. -/
def CodeTable.decode (t : CodeTable) (bits : List Bool) : Scan Nat := decodeBits t.codes t.maxLen 0 0 bits

/-- A table built in the middle of a header: no bit is read (41_canonical_huffman R180). -/
def buildScan (lengths : List Nat) (bits : List Bool) : Scan CodeTable :=
  match buildCodes lengths with
  | .ok t => .good t bits
  | .error e => .bad e bits

/-- CLORD, the transmission order, as 41_canonical_huffman R193 lists it. -/
def transmissionOrder : List Nat := [16, 17, 18, 0, 8, 7, 9, 6, 10, 5, 11, 4, 12, 3, 13, 2, 14, 1, 15]

/-- The 3-bit code-length code lengths of the symbols `order`, written over `lens` (44_inflate_blocks R282). -/
def clLensOf : List Nat → List Nat → List Bool → Scan (List Nat)
  | [], lens, bits => .good lens bits
  | k :: ks, lens, bits => (takeBits 3 bits).bind fun v rest => clLensOf ks (lens.set k v) rest

/-- `r` copies of a length, unless they run past `total` (44_inflate_blocks R286 to R288). -/
def repeatOf (total l r : Nat) (seq : List Nat) (bits : List Bool) : Scan (List Nat) :=
  if seq.length + r ≤ total then .good (seq ++ List.replicate r l) bits else .bad .malformedHuffmanStream bits

/-- One code-length symbol with its extra bits (44_inflate_blocks R285 to R288). The code-length code has no symbol above 18. -/
def extendSeq (total sym : Nat) (seq : List Nat) (bits : List Bool) : Scan (List Nat) :=
  if sym < 16 then .good (seq ++ [sym]) bits
  else if sym = 16 then
    match seq.getLast? with
    | none => .bad .malformedHuffmanStream bits
    | some l => (takeBits 2 bits).bind fun e rest => repeatOf total l (3 + e) seq rest
  else if sym = 17 then (takeBits 3 bits).bind fun e rest => repeatOf total 0 (3 + e) seq rest
  else (takeBits 7 bits).bind fun e rest => repeatOf total 0 (11 + e) seq rest

/-- The code-length symbols that extend `seq` to `total` lengths (44_inflate_blocks R284); each adds a length, so `n` above
`total` is enough. -/
def lengthsOf (t : CodeTable) (total : Nat) : Nat → List Nat → List Bool → Scan (List Nat)
  | 0, seq, bits => .good seq bits
  | n + 1, seq, bits =>
    if seq.length < total then
      (t.decode bits).bind fun sym rest => (extendSeq total sym seq rest).bind fun seq' rest' => lengthsOf t total n seq' rest'
    else .good seq bits

/-- What follows the 14 count bits of a dynamic header (44_inflate_blocks R280 to R289): the literal/length lengths and the distance
lengths, or the error of the first check that fails. -/
def dynamicOf (hlit hdist hclen : Nat) (bits : List Bool) : Scan (List Nat × List Nat) :=
  if 286 < hlit + 257 ∨ 30 < hdist + 1 then .bad .malformedHuffmanStream bits
  else
    (clLensOf (transmissionOrder.take (hclen + 4)) (List.replicate 19 0) bits).bind fun cl rest1 =>
      (buildScan cl rest1).bind fun t rest2 =>
        (lengthsOf t (hlit + 257 + (hdist + 1)) (hlit + 257 + (hdist + 1) + 1) [] rest2).bind fun seq rest3 =>
          (buildScan (seq.take (hlit + 257)) rest3).bind fun _ rest4 =>
            (buildScan ((seq.drop (hlit + 257)).take (hdist + 1)) rest4).bind fun _ rest5 =>
              .good (seq.take (hlit + 257), (seq.drop (hlit + 257)).take (hdist + 1)) rest5

/-- The bytes of a gzip header after a FLG byte (46_frame_parser R413 to R417): six fixed bytes, then the extra field with its
little-endian length, the name, the comment and the header CRC, each when its flag is set. -/
def GzipTail (flg : Byte) (g : List Byte) : Prop :=
  ∃ (six xs name comment crc : List Byte) (x0 x1 : Byte),
    six.length = 6 ∧ xs.length = x0.toNat + 256 * x1.toNat ∧ (∀ b ∈ name, b ≠ 0) ∧ (∀ b ∈ comment, b ≠ 0) ∧ crc.length = 2
      ∧ g = six ++ (if flg.getLsbD 2 then x0 :: x1 :: xs else []) ++ (if flg.getLsbD 3 then name ++ [0] else [])
          ++ (if flg.getLsbD 4 then comment ++ [0] else []) ++ (if flg.getLsbD 1 then crc else [])

/-! ## The tables of the spec -/

/-- LBASE and LEXT of length symbols 257 to 285 (41_canonical_huffman R195). -/
def lenEntries : List (Nat × Nat) :=
  [(3, 0), (4, 0), (5, 0), (6, 0), (7, 0), (8, 0), (9, 0), (10, 0), (11, 1), (13, 1), (15, 1), (17, 1), (19, 2),
   (23, 2), (27, 2), (31, 2), (35, 3), (43, 3), (51, 3), (59, 3), (67, 4), (83, 4), (99, 4), (115, 4), (131, 5),
   (163, 5), (195, 5), (227, 5), (258, 0)]

/-- DBASE and DEXT of distance symbols 0 to 29 (41_canonical_huffman R196). -/
def distEntries : List (Nat × Nat) :=
  [(1, 0), (2, 0), (3, 0), (4, 0), (5, 1), (7, 1), (9, 2), (13, 2), (17, 3), (25, 3), (33, 4), (49, 4), (65, 5),
   (97, 5), (129, 6), (193, 6), (257, 7), (385, 7), (513, 8), (769, 8), (1025, 9), (1537, 9), (2049, 10), (3073, 10),
   (4097, 11), (6145, 11), (8193, 12), (12289, 12), (16385, 13), (24577, 13)]

/-- Each length symbol's instruction with its LBASE and LEXT. -/
def lenTable : List (Instr × Nat × Nat) := lenInstrs.zip lenEntries

/-- Each distance symbol's instruction with its DBASE and DEXT. -/
def distTable : List (Instr × Nat × Nat) := distInstrs.zip distEntries

/-- A distance symbol, decoded already: its extra bits and the distance, or for symbols 30 and 31, which have no entry, the error that
DIST30_31_MODE gives (45_inflate_symbols R306, R371). -/
def distanceOf (mode : DistMode) (ds : Nat) (bits : List Bool) : Scan Nat :=
  match distEntries[ds]? with
  | some (base, ext) => (takeBits ext bits).bind fun e rest => .good (base + e) rest
  | none => .bad (match mode with | .reject => .malformedHuffmanStream | .illegalDistance => .illegalDistance) bits

/-- A length symbol of `base` and `ext`, decoded already: its extra bits, a distance symbol under `tab`, and that symbol's extra bits
(45_inflate_symbols R304 to R306). -/
def pairOf (mode : DistMode) (tab : CodeTable) (base ext : Nat) (bits : List Bool) : Scan (Nat × Nat) :=
  (takeBits ext bits).bind fun e rest => (tab.decode rest).bind fun ds rest' =>
    (distanceOf mode ds rest').bind fun d rest'' => .good (base + e, d) rest''

/-- The "legal when" column of the command table (47_host_commands R440); true for what is no host command. -/
def commandLegal (i : Instr) (s : State) : Bool :=
  match i with
  | .start _ => s.phase == .idle || s.phase == .released
  | .read _ => s.phase == .header || s.phase == .body || s.phase == .done || s.phase == .failed
  | .enterTrailingBits _ | .enterTrailingBytes _ =>
    s.phase == .done && (s.eng == .lastBlockFree || s.eng == .trailingBits || s.eng == .trailingBytes)
  | .readTrailBit _ | .getBit _ => s.phase == .done && s.eng == .trailingBits
  | .readTrailByte _ => s.phase == .done && s.eng == .trailingBytes
  | _ => true

/-! ## What an instruction may write -/

/-- The fields of State, the window's, the cursor's and the scratch's apart. -/
inductive Field where
  | phase | eng | last | frame | storedRem | bc | llLen | llN | dLen | dN | pendLen | pendDist
  | winMem | winWptr | winFilled | winMaxDist | winAcq | out | outCount | err | resp | cfgFrame | maxDistReg | trail
  | scrNLit | scrNDist | scrClLen | scrSeq | scrLen | src | supply | distMode | ckParam | queue | busData | ret
  deriving DecidableEq, Repr

/-- Two states agree on a field. -/
def Field.same (f : Field) (s t : State) : Prop :=
  match f with
  | .phase => t.phase = s.phase
  | .eng => t.eng = s.eng
  | .last => t.last = s.last
  | .frame => t.frame = s.frame
  | .storedRem => t.storedRem = s.storedRem
  | .bc => t.bc = s.bc
  | .llLen => t.llLen = s.llLen
  | .llN => t.llN = s.llN
  | .dLen => t.dLen = s.dLen
  | .dN => t.dN = s.dN
  | .pendLen => t.pendLen = s.pendLen
  | .pendDist => t.pendDist = s.pendDist
  | .winMem => t.win.mem = s.win.mem
  | .winWptr => t.win.wptr = s.win.wptr
  | .winFilled => t.win.filled = s.win.filled
  | .winMaxDist => t.win.maxDist = s.win.maxDist
  | .winAcq => t.win.acq = s.win.acq
  | .out => t.out = s.out
  | .outCount => t.outCount = s.outCount
  | .err => t.err = s.err
  | .resp => t.resp = s.resp
  | .cfgFrame => t.cfgFrame = s.cfgFrame
  | .maxDistReg => t.maxDistReg = s.maxDistReg
  | .trail => t.trail = s.trail
  | .scrNLit => t.scr.nLit = s.scr.nLit
  | .scrNDist => t.scr.nDist = s.scr.nDist
  | .scrClLen => t.scr.clLen = s.scr.clLen
  | .scrSeq => t.scr.seq = s.scr.seq
  | .scrLen => t.scr.len = s.scr.len
  | .src => t.src = s.src
  | .supply => t.supply = s.supply
  | .distMode => t.distMode = s.distMode
  | .ckParam => t.ckParam = s.ckParam
  | .queue => t.queue = s.queue
  | .busData => t.busData = s.busData
  | .ret => t.ret = s.ret

/-- What taking an error writes (60_exceptions R480). -/
def latchFields : List Field := [.phase, .err, .resp]

/-- What reading the stream writes, the end of the stream included (40_bit_cursor R161). -/
def streamFields : List Field := .bc :: latchFields

/-- What a put writes (43_sliding_window R233). -/
def putFields : List Field := [.winMem, .winWptr, .winFilled]

/-- What `Emit` writes (10_state R47). -/
def emitFields : List Field := [.out, .outCount]

/-- What a new window writes (43_sliding_window R231). -/
def createFields : List Field := [.winAcq, .winMaxDist, .winWptr, .winFilled]

/-- What the header of a dynamic block writes (44_inflate_blocks R280). -/
def dynamicFields : List Field := [.scrNLit, .scrNDist, .scrClLen, .scrSeq, .llLen, .llN, .dLen, .dN, .eng]

/-- What a length and distance pair writes (45_inflate_symbols R306), the scratch length included. -/
def pairFields : List Field := [.scrLen, .pendLen, .pendDist]

/-- The fields an instruction may write; every other field it leaves. -/
def writes : Instr → List Field
  | .blockStored _ => streamFields ++ [.last, .storedRem, .eng]
  | .blockFixed _ => [.last, .llLen, .llN, .dLen, .dN, .eng]
  | .blockDynamic _ => streamFields ++ .last :: dynamicFields
  | .blockReserved _ => .last :: latchFields
  | .storedHdr _ _ => latchFields ++ [.storedRem, .eng]
  | .storedByte _ => putFields ++ emitFields ++ [.storedRem]
  | .dynHdr _ _ _ => streamFields ++ dynamicFields
  | .clLen _ => [.scrSeq]
  | .clRep16 | .clRep17 | .clRep18 => streamFields ++ [.scrSeq]
  | .lit _ => putFields ++ emitFields
  | .eob => [.eng]
  | .len257 | .len258 | .len259 | .len260 | .len261 | .len262 | .len263 | .len264 | .len265 | .len266 | .len267 | .len268
  | .len269 | .len270 | .len271 | .len272 | .len273 | .len274 | .len275 | .len276 | .len277 | .len278 | .len279 | .len280
  | .len281 | .len282 | .len283 | .len284 | .len285 => streamFields ++ pairFields
  | .dist0 | .dist1 | .dist2 | .dist3 | .dist4 | .dist5 | .dist6 | .dist7 | .dist8 | .dist9 | .dist10 | .dist11 | .dist12
  | .dist13 | .dist14 | .dist15 | .dist16 | .dist17 | .dist18 | .dist19 | .dist20 | .dist21 | .dist22 | .dist23 | .dist24
  | .dist25 | .dist26 | .dist27 | .dist28 | .dist29 => streamFields ++ [.pendLen, .pendDist]
  | .litlenInvalid _ | .distInvalid _ => latchFields
  | .zlibHdr _ => latchFields ++ createFields
  | .gzipHdr _ => streamFields
  | .zlibTrl _ | .gzipTrl _ _ => latchFields ++ [.trail]
  | .start _ =>
    createFields ++ emitFields ++ latchFields
      ++ [.frame, .eng, .last, .storedRem, .bc, .llLen, .llN, .dLen, .dN, .pendLen, .pendDist, .trail, .src]
  | .read _ =>
    streamFields ++ createFields ++ putFields ++ emitFields ++ dynamicFields ++ pairFields ++ [.last, .storedRem, .trail]
  | .enterTrailingBits _ => [.eng, .resp]
  | .enterTrailingBytes _ => [.eng, .bc, .resp]
  | .readTrailBit _ | .readTrailByte _ => streamFields
  | .release _ => [.winAcq, .phase, .resp]
  | .nop _ | .getBit _ | .cmdReserved0909 _ | .cmdReserved0A0B _ _ | .cmdReserved0C0F _ _ | .cmdReserved101F _ _
  | .cmdReserved203F _ _ | .cmdReserved407F _ _ | .cmdReserved80FF _ _ => [.resp]
  | .bcReadBit | .bcReadBits _ | .bcReadAlignedByte | .hufDecode _ => .ret :: streamFields
  | .bcAlign => [.bc, .ret]
  | .bcGetBit _ => [.ret, .resp]
  | .hufBuild _ => .ret :: latchFields
  | .winCreate _ => .ret :: createFields
  | .winPut _ | .winPutBulk _ _ => .ret :: putFields
  | .winCopy _ | .winCopyBulk _ _ => .ret :: (putFields ++ latchFields)
  | .winAvailable => [.ret]
  | .winClear => [.winWptr, .winFilled, .ret]
  | .winRelease => [.winAcq, .ret]
  | .winSetCap _ => [.winMaxDist, .ret]

/-- The `n` storage indices written by `n` puts that begin at index `w` (43_sliding_window R233). -/
def putIndices : Nat → Nat → List Nat
  | _, 0 => []
  | w, n + 1 => w :: putIndices ((w + 1) % Config.windowCapacity) n

/-- The storage indices an instruction may store to. A READ stores at most one byte; where it first reads a zlib header it stores
to index 0 of the window it has just created (46_frame_parser R405). -/
def storedAt (i : Instr) (s : State) : List Nat :=
  match i with
  | .lit _ | .storedByte _ | .winPut _ | .winCopy _ => [s.win.wptr]
  | .winPutBulk maxLen bytes => putIndices s.win.wptr (min maxLen bytes.length)
  | .winCopyBulk _ maxLen => putIndices s.win.wptr maxLen
  | .read _ => if s.phase = .header ∧ s.frame = .zlib then [0] else [s.win.wptr]
  | _ => []

/-- The state an error leaves that was met in `s` (60_exceptions R480): what the failing operation wrote is in `s`. -/
def failedWith (e : StreamError) (s : State) : State :=
  { s with err := some e, phase := .failed, resp := .error e.code }

/-- The three ends of a payload, with the source bytes that follow its last byte: the engine already past its last block, a last
stored block with no byte left (44_inflate_blocks R276), and the end-of-block code of a last Huffman block (45_inflate_symbols
R303), after which the rest of a byte is padding (46_frame_parser R420). -/
def PayloadEnds (s : State) (bytes : List Byte) : Prop :=
  (s.eng = .lastBlockFree ∧ s.src.drop s.bc.next = bytes)
    ∨ (s.eng = .stored ∧ s.storedRem = 0 ∧ s.last = true ∧ s.src.drop s.bc.next = bytes)
    ∨ ((s.eng = .fixedHuffman ∨ s.eng = .dynamicHuffman) ∧ s.pendLen = 0 ∧ s.last = true
        ∧ ∃ tab pad, buildCodes s.llLengths = .ok tab ∧ tab.decode s.upcoming = .good 256 (pad ++ bytes.flatMap byteBits)
            ∧ pad.length < 8)

/-- What a dynamic header leaves in `t` from `s`, for what its bits scan to (44_inflate_blocks R289, R292): the two lists of lengths,
padded with zeros, or the latched error with the tables and the engine state kept. -/
def DynamicLeaves (hlit hdist : Nat) (r : Scan (List Nat × List Nat)) (s t : State) : Prop :=
  match r with
  | .good p rest =>
    t.upcoming = rest
      ∧ t = { s with
              bc := t.bc
              scr := t.scr
              llLen := p.1 ++ List.replicate (288 - p.1.length) 0
              llN := hlit + 257
              dLen := p.2 ++ List.replicate (32 - p.2.length) 0
              dN := hdist + 1
              eng := .dynamicHuffman }
  | .bad e rest => t.upcoming = rest ∧ t = failedWith e { s with bc := t.bc, scr := t.scr }

/-! ## Invariants -/

/-- The cursor stands in the source (10_state R37 to R39): the byte it holds is the last one pulled, and a bit of that byte has been consumed,
as no byte is pulled before a bit of it is needed (R40, 40_bit_cursor R170). With the bits still to come that fixes the cursor. -/
def CursorOk (s : State) : Prop :=
  s.bc.next ≤ s.src.length ∧ (s.bc.next = 0 → s.bc.pos = 8 ∧ s.bc.cur = 0)
    ∧ (0 < s.bc.next → s.src[s.bc.next - 1]? = some s.bc.cur) ∧ s.bc.pos ≠ 0

/-- The ranges of the window (10_state R46), its storage in canonical form, and every retrievable byte stored (43_sliding_window R236). -/
def WindowOk (w : Window) : Prop :=
  w.wptr < Config.windowCapacity ∧ w.filled ≤ Config.windowCapacity ∧ 1 ≤ w.maxDist ∧ w.maxDist ≤ Config.windowCapacity
    ∧ Memory.wf w.mem = true ∧ ∀ d, 1 ≤ d → d ≤ w.filled → (w.look d).isSome = true

/-- A code table's lengths (10_state R42, R43): `cap` entries of 0 to 15, zeros from entry `n` on, and the first `n` build. -/
def TableOk (cap n : Nat) (lens : List Nat) : Prop :=
  lens.length = cap ∧ n ≤ cap ∧ (∀ L ∈ lens, L ≤ Config.maxCodeLen) ∧ (∀ L ∈ lens.drop n, L = 0)
    ∧ (buildCodes (lens.take n)).toOption.isSome = true

/-- The pending copy's ranges (10_state R45); an outstanding copy has a distance. -/
def CopyOk (s : State) : Prop := s.pendLen ≤ 258 ∧ s.pendDist ≤ 32768 ∧ (0 < s.pendLen → 1 ≤ s.pendDist)

/-- The scratch's ranges (10_state R44, 30_encoding R113, R116). -/
def ScratchOk (c : Scratch) : Prop :=
  c.nLit ≤ 286 ∧ c.nDist ≤ 30 ∧ c.clLen.length = 19 ∧ (∀ L ∈ c.clLen, L ≤ 7) ∧ (∀ L ∈ c.seq, L ≤ 15) ∧ c.len ≤ 258

/-- The phase is one a step may leave (10_state R32); only a session with a frame header has one to read; an error stays
latched in Failed and after its RELEASE (60_exceptions R480, R490). -/
def PhaseOk (s : State) : Prop :=
  s.phase ≠ .trailer ∧ (s.phase = .header → s.frame ≠ .raw) ∧ (s.phase = .failed → s.err ≠ none)
    ∧ (s.err ≠ none → s.phase = .failed ∨ s.phase = .released)

/-- The registers that hold legal values only: OUT_COUNT (10_state R47), MAXDIST (R67), and an error response's code (R63). -/
def RegistersOk (s : State) : Prop :=
  s.outCount = BitVec.ofNat 32 s.out.length ∧ maxDistLegal s.maxDistReg = true
    ∧ ∀ c, s.resp = .error c → 1 ≤ c ∧ c ≤ 5

/-- What every step keeps, elements and micro-operations as steps of their own included. -/
def Inv (s : State) : Prop :=
  CursorOk s ∧ WindowOk s.win ∧ TableOk 288 s.llN s.llLen ∧ TableOk 32 s.dN s.dLen ∧ CopyOk s ∧ ScratchOk s.scr ∧ PhaseOk s
    ∧ RegistersOk s

/-- What the host can do to the block: everything but running an element or a micro-operation, which appear at no port (30_encoding R123). -/
def Request.host : Request → Bool
  | .instr _ => false
  | _ => true

/-- A request the interface has: a host access is one aligned word (20_memory R89). -/
def Request.inInterface : Request → Bool
  | .write off size _ | .read off size => wordAccess off size
  | _ => true

/-- The window holds the end of the output: the byte at look-back distance `d` is the byte emitted `d` bytes ago
(43_sliding_window R234, 20_memory R93). -/
def LogOk (s : State) : Prop :=
  s.win.filled = min s.out.length Config.windowCapacity ∧ s.win.wptr = s.out.length % Config.windowCapacity
    ∧ ∀ d, 1 ≤ d → d ≤ s.win.filled → s.win.look d = s.out[s.out.length - d]?

/-- The engine state a phase allows (10_state R33, 46_frame_parser R423, R424). -/
def EngineOk (s : State) : Prop :=
  (s.phase = .header → s.eng = .blockFree ∧ s.out = [] ∧ s.bc = BitCursor.reset)
    ∧ (s.phase = .body → s.eng = .blockFree ∨ s.eng = .stored ∨ s.eng = .fixedHuffman ∨ s.eng = .dynamicHuffman)
    ∧ (s.phase = .done → s.eng = .lastBlockFree ∨ s.eng = .trailingBits ∨ s.eng = .trailingBytes)
    ∧ (0 < s.pendLen → s.eng = .fixedHuffman ∨ s.eng = .dynamicHuffman)
    ∧ (s.storedRem ≠ 0 → s.eng = .stored)

/-- The window is held exactly in an open session (47_host_commands R443). -/
def HeldOk (s : State) : Prop := s.win.acq = true ↔ s.phase ≠ .idle ∧ s.phase ≠ .released

/-- What the host can have asked, and what a session has produced for the bits it consumed (47_host_commands R460). -/
def BudgetOk (s : State) : Prop := s.out.length + s.pendLen ≤ 129 * s.bitpos

/-- What every step of a block that only its host drives keeps. -/
def SessionInv (s : State) : Prop :=
  Inv s ∧ s.queue.all Request.host = true ∧ LogOk s ∧ EngineOk s ∧ HeldOk s ∧ BudgetOk s

end Sys2Proof.Machine
end

