-- ==== Sys2Proof/Certificates/Slice0/Obligations.lean ====
section
/-! DEFINITION. The statements for the provers, one definition each. -/

open Sys2Proof Sys2Proof.Machine

/-! ## Encoding and the step -/

/-- Decoding the word of an instruction gives the instruction back (30_encoding R110 to R123). -/
def Obligations.DecodeOfEncode : Prop := ∀ i : Instr, decode (encode i) = .ok i

/-- Each word has one meaning: a word that decodes is the word of what it decodes to (30_encoding R110 to R123). -/
def Obligations.EncodeOfDecode : Prop := ∀ (w : InstrWord) (i : Instr), decode w = .ok i → encode i = w

/-- Words written out from 30_encoding R111 to R118, R122 and R123, and from the opcode table. -/
def Obligations.SpecWordsDecode : Prop :=
  decode (.plain .blkHdr 0b011) = .ok (.blockFixed true)
    ∧ decode (.plain .blkHdr 0b110) = .ok (.blockReserved false)
    ∧ decode (.plain .storedHdr 0xFFFA0005) = .ok (.storedHdr 5 0xFFFA)
    ∧ decode (.plain .storedByte 0x68) = .ok (.storedByte 0x68)
    ∧ decode (.plain .dynHdr 0b11100000111101) = .ok (.dynHdr 29 1 14)
    ∧ decode (.plain .clSym 18) = .ok .clRep18
    ∧ decode (.plain .litlenSym 0x61) = .ok (.lit 0x61)
    ∧ decode (.plain .litlenSym 285) = .ok .len285
    ∧ decode (.plain .distSym 30) = .ok (.distInvalid 0)
    ∧ decode (.plain .zlibHdr 0x789C) = .ok (.zlibHdr 0x789C)
    ∧ decode (.plain .gzipHdr 0x04088B1F) = .ok (.gzipHdr 0x04088B1F)
    ∧ decode (.plain .zlibTrl 0x14E103CB) = .ok (.zlibTrl 0x14E103CB)
    ∧ decode (.plain .gzipTrl 0x000000053610A686) = .ok (.gzipTrl 0x3610A686 5)
    ∧ decode (.plain .hostCmd 0x00000507) = .ok (.getBit 5)
    ∧ decode ⟨.microOp, 0x34, [2, 5]⟩ = .ok (.winCopyBulk 2 5)

/-- A step whose oldest request is an element, a micro-operation or a CTRL write runs the instruction its word decodes to, on the state
with the request taken off the queue (10_state R62, 00_scope R9; log 1). -/
def Obligations.StepRunsDecodedInstruction : Prop :=
  ∀ (s : State) (rest : List Request) (i : Instr),
    (∀ w, s.queue = .instr w :: rest → decode w = .ok i → step s = exec i { s with queue := rest })
      ∧ ∀ v : Word, s.queue = .write 0x00 4 v :: rest → decode (.plain .hostCmd v.toNat) = .ok i →
          step s = exec i { s with queue := rest }

/-- A block-header pass, a decoded literal/length symbol, a decoded distance symbol and a decoded code-length symbol each run the
instruction their value decodes to (44_inflate_blocks R271, R284; 45_inflate_symbols R300). A READ that begins with a block header, or with
a length symbol, the end of block or an invalid symbol, runs that instruction and goes on as a READ of the state it leaves, unless the
instruction has failed the session (44_inflate_blocks R270). A block header whose source ends inside its three bits fails, with `last`
written where BFINAL was still there (R271). -/
def Obligations.EnginePassesRunTheInstructions : Prop :=
  (∀ (s s1 : State) (v : Nat) (i : Instr), readBits 3 s = .ok v s1 → decode (.plain .blkHdr v) = .ok i →
      (blockHeader s).finish = exec i s1
        ∧ ∀ (arg : BitVec 24) (t : State), s.phase = .body → s.eng = .blockFree → exec i s1 = .next t →
            exec (.read arg) s = (if t.phase = .failed then .next t else exec (.read arg) t))
    ∧ (∀ s : State, s.upcoming.length < 3 →
        ∃ t, (blockHeader s).finish = .next t ∧ t.upcoming = []
          ∧ t = failedWith .unexpectedEndOfStream { s with last := s.upcoming.head?.getD s.last, bc := t.bc }
          ∧ ∀ arg : BitVec 24, s.phase = .body → s.eng = .blockFree → exec (.read arg) s = .next t)
    ∧ (∀ (s s1 : State) (sym : Nat) (i : Instr), s.pendLen = 0 → decodeLitlen s = .ok sym s1 →
        decode (.plain .litlenSym sym) = .ok i →
        ((huffStep s).bind fun _ s2 => .ok () s2).finish = exec i s1
          ∧ ∀ (arg : BitVec 24) (t : State), s.phase = .body → s.eng = .fixedHuffman ∨ s.eng = .dynamicHuffman → 256 ≤ sym →
              exec i s1 = .next t → exec (.read arg) s = (if t.phase = .failed then .next t else exec (.read arg) t))
    ∧ (∀ (s : State) (ds : Nat) (i : Instr), decode (.plain .distSym ds) = .ok i → (distElem ds s).finish = exec i s)
    ∧ ∀ (s : State) (sym : Nat) (i : Instr), decode (.plain .clSym sym) = .ok i → (clElem sym s).finish = exec i s

/-! ## Frames -/

/-- A syntax element leaves every field that is not in its list `writes` as it was. That STORED_HDR, STORED_BYTE, ZLIB_HDR, ZLIB_TRL and
GZIP_TRL keep the cursor, where the rules read those bytes (44_inflate_blocks R274, R275; 46_frame_parser R402, R421, R422), is the model's
reading: an element's own field or code is an operand already consumed (log 3). The fields of `scr` are the model's places (log 13). -/
def Obligations.ElementsLeaveOtherFields : Prop :=
  ∀ (i : Instr) (s t : State), (encode i).fmt ≠ .hostCmd → (encode i).fmt ≠ .microOp → exec i s = .next t →
    ∀ f : Field, f ∉ writes i → f.same s t

/-- A host command leaves every field that is not in its list `writes` as it was. That RELEASE leaves the window's storage as it was is the
model's choice, and that START does is 10_state R74, where 93_implementation_defined I2 has any value (log 28). -/
def Obligations.CommandsLeaveOtherFields : Prop :=
  ∀ (i : Instr) (s t : State), (encode i).fmt = .hostCmd → exec i s = .next t → ∀ f : Field, f ∉ writes i → f.same s t

/-- A micro-operation leaves every field that is not in its list `writes` as it was. That WIN_RELEASE leaves the window's
storage as it was is the model's choice (log 28). -/
def Obligations.MicroOpsLeaveOtherFields : Prop :=
  ∀ (i : Instr) (s t : State), (encode i).fmt = .microOp → exec i s = .next t → ∀ f : Field, f ∉ writes i → f.same s t

/-- Every byte of the window outside the indices an instruction stores to reads as before (43_sliding_window R234). For
RELEASE and WIN_RELEASE that is the model's choice (log 28): R243 leaves those contents unspecified, and no rule reads them. For START it
is 10_state R74, where 93_implementation_defined I2 has any value. -/
def Obligations.WindowBytesKept : Prop :=
  ∀ (i : Instr) (s t : State), exec i s = .next t →
    ∀ a, a ∉ storedAt i s → Memory.read t.win.mem a = Memory.read s.win.mem a

/-! ## Invariants and whole-machine rules -/

/-- The state after reset satisfies both invariants (10_state R74). -/
def Obligations.ResetSatisfiesInvariants : Prop := Inv State.reset ∧ SessionInv State.reset

/-- Every step keeps the ranges and forms of the state, elements and micro-operations as steps of their own included. `CursorOk` in it has no
byte pulled of which no bit is consumed, whatever the step reads (40_bit_cursor R170). -/
def Obligations.EveryStepKeepsInv : Prop := ∀ s t : State, Inv s → step s = .next t → Inv t

/-- Every step of a block that only its host drives keeps the session's invariant: the window is the end of the output
(43_sliding_window R234), it is held exactly in an open session, and the output stays within what the consumed bits allow (47_host_commands R460). -/
def Obligations.HostStepsKeepSessionInv : Prop := ∀ s t : State, SessionInv s → step s = .next t → SessionInv t

/-- A block that only its host drives never stops but on a host access that is not one aligned word: no fault, no other refusal, no
bound of a loop used up (60_exceptions R492, 43_sliding_window R236, 44_inflate_blocks R293). -/
def Obligations.HostStepsNeverStop : Prop :=
  ∀ s : State, SessionInv s → (∀ r, s.queue.head? = some r → r.inInterface = true) → ∃ t, step s = .next t

/-- Every READ of an open session ends in one of three ways: a byte, emitted and returned; the end of data; or an error, with
nothing emitted (47_host_commands R446, R460; 60_exceptions R480). -/
def Obligations.ReadAlwaysCompletes : Prop :=
  ∀ (s : State) (arg : BitVec 24), SessionInv s → s.phase = .header ∨ s.phase = .body →
    ∃ t, exec (.read arg) s = .next t ∧
      ((∃ b, t.resp = .data b ∧ t.out = s.out ++ [b] ∧ t.phase = .body ∧ t.err = s.err)
        ∨ (t.resp = .eod ∧ t.out = s.out ∧ t.phase = .done ∧ t.err = s.err)
        ∨ ∃ e : StreamError, t.resp = .error e.code ∧ t.out = s.out ∧ t.phase = .failed ∧ t.err = some e)

/-- An error is taken as one entry: it is latched, the session has failed and the response says so, and nothing has been emitted
by the instruction that met it (60_exceptions R480). -/
def Obligations.ErrorsLatchPrecisely : Prop :=
  ∀ (i : Instr) (s t : State), exec i s = .next t → s.phase ≠ .failed → t.phase = .failed →
    ∃ e : StreamError, t.err = some e ∧ t.resp = .error e.code ∧ t.out = s.out ∧ t.outCount = s.outCount

/-- The stream position never goes back but at START and at reset (10_state R41). -/
def Obligations.StreamPositionNeverDecreases : Prop :=
  ∀ s t : State, Inv s → step s = .next t →
    s.bitpos ≤ t.bitpos ∨ s.queue.head? = some .reset
      ∨ (∃ v arg, s.queue.head? = some (.write 0x00 4 v) ∧ decode (.plain .hostCmd v.toNat) = .ok (.start arg))
      ∨ ∃ w arg, s.queue.head? = some (.instr w) ∧ decode w = .ok (.start arg)

/-- CONFIG and MAXDIST change only by a host write in Idle or Released, or by reset (47_host_commands R453). -/
def Obligations.ConfigurationIsStableInASession : Prop :=
  ∀ s t : State, step s = .next t → s.phase ≠ .idle → s.phase ≠ .released → s.queue.head? ≠ some .reset →
    t.cfgFrame = s.cfgFrame ∧ t.maxDistReg = s.maxDistReg

/-- A session gives at most 1032 bytes for each byte of its source (47_host_commands R460). -/
def Obligations.OutputIsBoundedByTheSource : Prop := ∀ s : State, SessionInv s → s.out.length ≤ 1032 * s.src.length

/-! ## Reset and the register window -/

/-- Reset gives every piece of the block's state its reset value, in the middle of a session too (70_reset_and_hazards R520, R521). -/
def Obligations.ResetGivesResetValues : Prop :=
  ∀ (s : State) (rest : List Request), s.queue = .reset :: rest →
    ∃ t, step s = .next t
      ∧ t.phase = .idle ∧ t.eng = .blockFree ∧ t.last = false ∧ t.frame = .raw ∧ t.storedRem = 0
      ∧ t.bc.cur = 0 ∧ t.bc.pos = 8 ∧ t.bc.next = 0
      ∧ t.llLen = List.replicate 288 0 ∧ t.llN = 0 ∧ t.dLen = List.replicate 32 0 ∧ t.dN = 0
      ∧ t.pendLen = 0 ∧ t.pendDist = 0 ∧ t.win.wptr = 0 ∧ t.win.filled = 0 ∧ t.win.acq = false
      ∧ t.out = [] ∧ t.outCount = 0 ∧ t.err = none ∧ t.resp = .none ∧ t.trail = 0
      ∧ readReg 0x04 t = 0 ∧ readReg 0x08 t = 0 ∧ readReg 0x0C t = 0 ∧ readReg 0x10 t = 0 ∧ readReg 0x14 t = 0x8000
      ∧ readReg 0x18 t = 0x8000 ∧ readReg 0x1C t = 0 ∧ readReg 0x20 t = 0 ∧ readReg 0x24 t = 8 ∧ readReg 0x28 t = 0
      ∧ readReg 0x2C t = 0

/-- A register read gives the host the register's word and changes nothing else (the word read is the model's `busData`, log 7); an
offset not in the map and CTRL read 0; a write at an offset other than CTRL, CONFIG and MAXDIST is ignored (10_state R60). -/
def Obligations.RegisterWindowAccess : Prop :=
  ∀ (s : State) (rest : List Request) (off : Nat), off % 4 = 0 →
    (s.queue = .read off 4 :: rest → step s = .next { s with queue := rest, busData := readReg off s })
      ∧ (off = 0x00 ∨ 0x2C < off → readReg off s = 0)
      ∧ ∀ v : Word, off ≠ 0x00 → off ≠ 0x10 → off ≠ 0x14 → s.queue = .write off 4 v :: rest →
          step s = .next { s with queue := rest }

/-- The fields of STATUS, with the codes of the phases, the engine states and the frames as numbers (10_state R32, R33, R35), and its reset
value (R65). -/
def Obligations.StatusFields : Prop :=
  ∀ s : State,
    (∀ p n, (p, n) ∈ [(Phase.idle, 0), (.header, 1), (.body, 2), (.trailer, 3), (.done, 4), (.failed, 5), (.released, 6)] →
        s.phase = p → ((readReg 0x08 s).extractLsb' 0 3).toNat = n)
      ∧ (readReg 0x08 s).getLsbD 3 = false
      ∧ (∀ g n, (g, n) ∈ [(Eng.blockFree, 0), (.stored, 1), (.fixedHuffman, 2), (.dynamicHuffman, 3), (.lastBlockFree, 4),
            (.trailingBits, 5), (.trailingBytes, 6)] →
          s.eng = g → ((readReg 0x08 s).extractLsb' 4 3).toNat = n)
      ∧ (readReg 0x08 s).getLsbD 7 = s.last
      ∧ (readReg 0x08 s).getLsbD 8 = s.win.acq
      ∧ (∀ f n, (f, n) ∈ [(Frame.raw, 0), (.zlib, 1), (.gzip, 2)] → s.frame = f → ((readReg 0x08 s).extractLsb' 9 2).toNat = n)
      ∧ (readReg 0x08 s).getLsbD 11 = decide (0 < s.pendLen)
      ∧ (readReg 0x08 s).extractLsb' 12 20 = 0
      ∧ readReg 0x08 State.reset = 0

/-- RESP is `KIND << 8 | CODE << 12 | DATA` (47_host_commands R441, 10_state R63). -/
def Obligations.ResponseWord : Prop :=
  ∀ s : State,
    (s.resp = .none → readReg 0x04 s = 0)
      ∧ (s.resp = .ok → readReg 0x04 s = 0x100)
      ∧ (∀ v, s.resp = .data v → readReg 0x04 s = 0x200 + v.setWidth 32)
      ∧ (s.resp = .eod → readReg 0x04 s = 0x300)
      ∧ (∀ e : StreamError, s.resp = .error e.code → readReg 0x04 s = 0x400 + BitVec.ofNat 32 e.code <<< 12)
      ∧ (s.resp = .reject .badCmd → readReg 0x04 s = 0x1500)
      ∧ (s.resp = .reject .badState → readReg 0x04 s = 0x2500)
      ∧ (s.resp = .reject .badArg → readReg 0x04 s = 0x3500)

/-- ERROR, WINDIST, OUT_COUNT, IN_BYTES, BITPOS, CHECKSUM and TRAIL, and their reset values (10_state R66, R68 to R73;
60_exceptions R481). -/
def Obligations.ReadOnlyRegisterValues : Prop :=
  ∀ s : State,
    (s.err = none → readReg 0x0C s = 0)
      ∧ (s.err = some .unexpectedEndOfStream → readReg 0x0C s = 1)
      ∧ (s.err = some .malformedBlockType → readReg 0x0C s = 2)
      ∧ (s.err = some .compressAlgorithmError → readReg 0x0C s = 3)
      ∧ (s.err = some .malformedHuffmanStream → readReg 0x0C s = 4)
      ∧ (s.err = some .illegalDistance → readReg 0x0C s = 5)
      ∧ readReg 0x18 s = BitVec.ofNat 32 s.win.maxDist
      ∧ readReg 0x1C s = s.outCount
      ∧ readReg 0x20 s = BitVec.ofNat 32 s.bc.next
      ∧ ((readReg 0x24 s).extractLsb' 0 4).toNat = s.bc.pos.val
      ∧ ((readReg 0x24 s).extractLsb' 4 4).toNat = 8 - s.bc.pos.val
      ∧ (readReg 0x24 s).extractLsb' 8 24 = 0
      ∧ (s.phase = .idle ∨ s.frame = .raw → readReg 0x28 s = 0)
      ∧ (s.phase ≠ .idle → s.frame = .zlib → readReg 0x28 s = adler32Fn s.ckParam s.out)
      ∧ (s.phase ≠ .idle → s.frame = .gzip → readReg 0x28 s = crc32Fn s.ckParam s.out)
      ∧ readReg 0x2C s = s.trail
      ∧ readReg 0x0C State.reset = 0 ∧ readReg 0x18 State.reset = 0x8000 ∧ readReg 0x1C State.reset = 0
      ∧ readReg 0x20 State.reset = 0 ∧ readReg 0x24 State.reset = 0x08 ∧ readReg 0x28 State.reset = 0

/-! ## Host commands -/

/-- A write of CONFIG sets FRAME from bits 1:0, but for 3 and in a phase other than Idle and Released, which leave it; the other bits
are ignored and read 0 (10_state R64). A write of MAXDIST sets its value to bits 15:0, but for 0, a value above 0x8000 and a phase other
than Idle and Released, which leave it; bits 31:16 read 0 (R67). That a write of MAXDIST ignores bits 31:16 is the model's reading (log 23). -/
def Obligations.ConfigurationWrites : Prop :=
  ∀ (s : State) (rest : List Request) (v : Word),
    (s.queue = .write 0x10 4 v :: rest →
        ∃ t, step s = .next t ∧ t = { s with queue := rest, cfgFrame := t.cfgFrame }
          ∧ (s.phase = .idle ∨ s.phase = .released → v.toNat % 4 ≠ 3 → (readReg 0x10 t).toNat = v.toNat % 4)
          ∧ (v.toNat % 4 = 3 ∨ (s.phase ≠ .idle ∧ s.phase ≠ .released) → t.cfgFrame = s.cfgFrame))
      ∧ (s.queue = .write 0x14 4 v :: rest →
          ∃ t, step s = .next t ∧ t = { s with queue := rest, maxDistReg := t.maxDistReg }
            ∧ (s.phase = .idle ∨ s.phase = .released → 1 ≤ v.toNat % 65536 → v.toNat % 65536 ≤ 0x8000 →
                (readReg 0x14 t).toNat = v.toNat % 65536)
            ∧ (v.toNat % 65536 = 0 ∨ 0x8000 < v.toNat % 65536 ∨ (s.phase ≠ .idle ∧ s.phase ≠ .released) →
                t.maxDistReg = s.maxDistReg))
      ∧ (s.cfgFrame = .raw → readReg 0x10 s = 0) ∧ (s.cfgFrame = .zlib → readReg 0x10 s = 1) ∧ (s.cfgFrame = .gzip → readReg 0x10 s = 2)
      ∧ (readReg 0x10 s).toNat < 4 ∧ (readReg 0x14 s).toNat < 65536

/-- A command outside its "legal when" column is rejected with BAD_STATE (47_host_commands R440), and a command whose response is a
rejection has changed nothing but the response (R442). -/
def Obligations.RejectedCommands : Prop :=
  (∀ (i : Instr) (s : State), (encode i).fmt = .hostCmd → commandLegal i s = false →
      exec i s = .next { s with resp := .reject .badState })
    ∧ ∀ (i : Instr) (s t : State) (r : RejectReason), (encode i).fmt = .hostCmd → exec i s = .next t → t.resp = .reject r →
      t = { s with resp := .reject r }

/-- The reserved commands are rejected with BAD_CMD in every state, and every CTRL word with a CMD from 9 on is one
(47_host_commands R442, 30_encoding R122). -/
def Obligations.ReservedCommandsAreRejected : Prop :=
  (∀ (s : State) (arg : BitVec 24) (l1 : BitVec 1) (l2 : BitVec 2) (l4 : BitVec 4) (l5 : BitVec 5) (l6 : BitVec 6)
      (l7 : BitVec 7) (i : Instr),
      i ∈ [Instr.cmdReserved0909 arg, .cmdReserved0A0B l1 arg, .cmdReserved0C0F l2 arg, .cmdReserved101F l4 arg,
        .cmdReserved203F l5 arg, .cmdReserved407F l6 arg, .cmdReserved80FF l7 arg] →
      exec i s = .next { s with resp := .reject .badCmd })
    ∧ ∀ (s : State) (rest : List Request) (v : Word), s.queue = .write 0x00 4 v :: rest → 9 ≤ v.toNat % 256 →
      step s = .next { s with queue := rest, resp := .reject .badCmd }

/-- NOP answers OK (47_host_commands R444); RELEASE answers whether the window was held, gives it up, and ends the session unless none
was started (R452). That the window's storage keeps its bytes is the model's choice (log 28). -/
def Obligations.NopAndRelease : Prop :=
  ∀ (s : State) (arg : BitVec 24),
    exec (.nop arg) s = .next { s with resp := .ok }
      ∧ exec (.release arg) s = .next
          { s with
            win := { s.win with acq := false }
            phase := if s.phase = .idle then .idle else .released
            resp := .data (if s.win.acq then 1 else 0) }

/-- START opens a session (47_host_commands R445). Which source it takes is said by `StartTakesTheSupply`. The
window's storage is kept, as 10_state R74 has it where 93_implementation_defined I2 has any value (log 28). -/
def Obligations.StartOpensASession : Prop :=
  ∀ (s : State) (arg : BitVec 24), s.phase = .idle ∨ s.phase = .released →
    ∃ t, exec (.start arg) s = .next t ∧ t = { s with
        frame := s.cfgFrame
        eng := .blockFree
        last := false
        storedRem := 0
        bc := { cur := 0, pos := 8, next := 0 }
        llLen := List.replicate 288 0
        llN := 0
        dLen := List.replicate 32 0
        dN := 0
        pendLen := 0
        pendDist := 0
        win :=
          { mem := s.win.mem
            wptr := 0
            filled := 0
            maxDist := if s.cfgFrame = .zlib then 32768 else s.maxDistReg.toNat
            acq := true }
        out := []
        outCount := 0
        err := none
        trail := 0
        src := t.src
        phase := if s.cfgFrame = .raw then .body else .header
        resp := .ok }

/-- START's source is the one last made available: the model's choice of how `SRC` reaches the block (log 6; 00_scope R11,
70_reset_and_hazards R524). -/
def Obligations.StartTakesTheSupply : Prop :=
  ∀ (s : State) (rest : List Request) (bytes : List Byte) (arg : BitVec 24), s.phase = .idle ∨ s.phase = .released →
    (s.queue = .supply bytes :: rest → step s = .next { s with queue := rest, supply := bytes })
      ∧ ∃ t, exec (.start arg) s = .next t ∧ t.src = s.supply ∧ t.supply = s.supply

/-- READ in Done answers EOD and in Failed the latched error, and changes nothing else (47_host_commands R446). -/
def Obligations.ReadAfterTheEnd : Prop :=
  ∀ (s : State) (arg : BitVec 24),
    (s.phase = .done → exec (.read arg) s = .next { s with resp := .eod })
      ∧ ∀ e : StreamError, s.phase = .failed → s.err = some e →
          exec (.read arg) s = .next { s with resp := .error e.code }

/-- ENTER_TRAILING_BITS and ENTER_TRAILING_BYTES, where they are legal: the one discards no bit, the other aligns (47_host_commands R447, R448). -/
def Obligations.TrailingModesAreEntered : Prop :=
  ∀ (s : State) (arg : BitVec 24), s.phase = .done → s.eng = .lastBlockFree ∨ s.eng = .trailingBits ∨ s.eng = .trailingBytes →
    exec (.enterTrailingBits arg) s = .next { s with eng := .trailingBits, resp := .ok }
      ∧ exec (.enterTrailingBytes arg) s = .next
          { s with eng := .trailingBytes, bc := { s.bc with pos := 8 }, resp := .ok }

/-- READ_TRAIL_BIT and READ_TRAIL_BYTE read the residue, and fail where none is left (47_host_commands R449, R450). GET_BIT answers a
buffered bit and consumes nothing; an index beyond the residue is rejected with BAD_ARG (R451, 40_bit_cursor R168). -/
def Obligations.TrailingReads : Prop :=
  ∀ (s : State) (arg : BitVec 24), s.phase = .done →
    (∀ b rest, s.eng = .trailingBits → s.upcoming = b :: rest →
        ∃ t, exec (.readTrailBit arg) s = .next t
          ∧ t = { s with bc := t.bc, resp := .data (if b then 1 else 0) } ∧ t.upcoming = rest)
      ∧ (s.eng = .trailingBits → s.upcoming = [] →
          exec (.readTrailBit arg) s = .next (failedWith .unexpectedEndOfStream s))
      ∧ (∀ b, s.eng = .trailingBytes → s.src[s.bc.next]? = some b →
          exec (.readTrailByte arg) s = .next
            { s with bc := { cur := b, pos := 8, next := s.bc.next + 1 }, resp := .data b })
      ∧ (s.eng = .trailingBytes → s.src[s.bc.next]? = none →
          exec (.readTrailByte arg) s = .next
            (failedWith .unexpectedEndOfStream { s with bc := { s.bc with pos := 8 } }))
      ∧ (s.eng = .trailingBits → arg.toNat < 8 - s.bc.pos.val →
          exec (.getBit arg) s = .next
            { s with resp := .data (if s.bc.cur.getLsbD (s.bc.pos.val + arg.toNat) then 1 else 0) })
      ∧ (s.eng = .trailingBits → 8 - s.bc.pos.val ≤ arg.toNat →
          exec (.getBit arg) s = .next { s with resp := .reject .badArg })

/-! ## READ in the payload -/

/-- READ with a copy outstanding gives the next byte of the copy, or IllegalDistance with the pending copy kept
(45_inflate_symbols R307, R308). -/
def Obligations.ReadCopiesOneByte : Prop :=
  ∀ (s : State) (arg : BitVec 24), s.phase = .body → s.eng = .fixedHuffman ∨ s.eng = .dynamicHuffman → 0 < s.pendLen →
    s.win.acq = true →
    (∀ b, 0 < s.pendDist → s.pendDist ≤ s.win.maxDist → s.pendDist ≤ s.win.filled → s.win.look s.pendDist = some b →
        exec (.read arg) s = .next
          { s with
            win := s.win.put b
            out := s.out ++ [b]
            outCount := s.outCount + 1
            pendLen := s.pendLen - 1
            resp := .data b })
      ∧ (s.pendDist = 0 ∨ s.win.maxDist < s.pendDist ∨ s.win.filled < s.pendDist →
          exec (.read arg) s = .next (failedWith .illegalDistance s))

/-- READ in a stored block. With bytes left it gives the next aligned source byte, or UnexpectedEndOfStream (44_inflate_blocks R275). With none
left it ends the block, reads no bit for that, and goes on as a READ of the state the block's end leaves: BlockFree, or LastBlockFree after
a last block (R276, R277, R290). -/
def Obligations.ReadStoredByte : Prop :=
  ∀ (s : State) (arg : BitVec 24), s.phase = .body → s.eng = .stored →
    (∀ b, s.storedRem ≠ 0 → s.win.acq = true → s.src[s.bc.next]? = some b →
        exec (.read arg) s = .next
          { s with
            bc := { cur := b, pos := 8, next := s.bc.next + 1 }
            win := s.win.put b
            out := s.out ++ [b]
            outCount := s.outCount + 1
            storedRem := s.storedRem - 1
            resp := .data b })
      ∧ (s.storedRem ≠ 0 → s.src[s.bc.next]? = none →
          exec (.read arg) s = .next
            (failedWith .unexpectedEndOfStream { s with bc := { s.bc with pos := 8 } }))
      ∧ (s.storedRem = 0 → s.last = false → exec (.read arg) s = exec (.read arg) { s with eng := .blockFree })
      ∧ (s.storedRem = 0 → s.last = true → exec (.read arg) s = exec (.read arg) { s with eng := .lastBlockFree })

/-- READ in a Huffman block. At a literal's code it gives the literal (45_inflate_symbols R301, R302). At the end-of-block code, in every
frame, it goes on as a READ of the state the block's end leaves: the code consumed, and the engine in LastBlockFree after a last block and
in BlockFree after any other (R303, 44_inflate_blocks R290). In the last block of a raw payload that is the end of data (46_frame_parser R424);
`ReadValidatesTheTrailer` says what it is in a zlib and a gzip session. Where the bits decode to no symbol it fails with the error of the
decode, exactly the bits of the decode consumed (42_symbol_resolver R212, R213, R215; what those are `ResolverDecodesEveryCode` says). -/
def Obligations.ReadHuffmanLiteralOrEnd : Prop :=
  ∀ (s : State) (arg : BitVec 24) (tab : CodeTable) (sym : Nat) (rest : List Bool), s.phase = .body →
    s.eng = .fixedHuffman ∨ s.eng = .dynamicHuffman → s.pendLen = 0 → buildCodes s.llLengths = .ok tab →
    (tab.decode s.upcoming = .good sym rest → sym < 256 → s.win.acq = true →
        ∃ t, exec (.read arg) s = .next t ∧ t.upcoming = rest
          ∧ t = { s with
                  bc := t.bc
                  win := s.win.put (BitVec.ofNat 8 sym)
                  out := s.out ++ [BitVec.ofNat 8 sym]
                  outCount := s.outCount + 1
                  resp := .data (BitVec.ofNat 8 sym) })
      ∧ (tab.decode s.upcoming = .good sym rest → sym = 256 →
          ∃ u, u.upcoming = rest ∧ u = { s with bc := u.bc, eng := if s.last then .lastBlockFree else .blockFree }
            ∧ exec (.read arg) s = exec (.read arg) u)
      ∧ (tab.decode s.upcoming = .good sym rest → sym = 256 → s.last = true → s.frame = .raw →
          ∃ t, exec (.read arg) s = .next t ∧ t.upcoming = rest
            ∧ t = { s with bc := t.bc, eng := .lastBlockFree, phase := .done, resp := .eod })
      ∧ ∀ e : StreamError, tab.decode s.upcoming = .bad e rest →
          ∃ t, exec (.read arg) s = .next t ∧ t.upcoming = rest ∧ t = failedWith e { s with bc := t.bc }

/-- READ at the end of a payload, wherever it ends (`PayloadEnds`: in a last stored block with no byte left, at the end-of-block code of a last
Huffman block, or with the engine already past its last block), with the source bytes `bytes` after it. A raw session is Done. In a zlib or
gzip session the cursor is aligned and the trailer read: a good one ends the session, a bad one fails it with the payload kept, and a source
that ends in it fails it with TRAIL kept (46_frame_parser R420 to R424; 44_inflate_blocks R276). -/
def Obligations.ReadValidatesTheTrailer : Prop :=
  ∀ (s : State) (arg : BitVec 24) (bytes : List Byte), s.phase = .body → PayloadEnds s bytes →
    (s.frame = .raw →
        ∃ t, exec (.read arg) s = .next t ∧ t = { s with bc := t.bc, eng := .lastBlockFree, phase := .done, resp := .eod }
          ∧ t.src.drop t.bc.next = bytes ∧ (s.eng = .lastBlockFree ∨ s.eng = .stored → t.bc = s.bc))
      ∧ (∀ (b0 b1 b2 b3 : Byte) (more : List Byte), s.frame = .zlib → bytes = b0 :: b1 :: b2 :: b3 :: more →
          (b0 ++ b1 ++ b2 ++ b3 = adler32Fn s.ckParam s.out →
              exec (.read arg) s = .next
                { s with
                  bc := { cur := b3, pos := 8, next := s.src.length - more.length }
                  eng := .trailingBytes
                  trail := b0 ++ b1 ++ b2 ++ b3
                  phase := .done
                  resp := .eod })
            ∧ (b0 ++ b1 ++ b2 ++ b3 ≠ adler32Fn s.ckParam s.out →
                exec (.read arg) s = .next
                  (failedWith .compressAlgorithmError
                    { s with
                      bc := { cur := b3, pos := 8, next := s.src.length - more.length }
                      eng := .trailingBytes
                      trail := b0 ++ b1 ++ b2 ++ b3 })))
      ∧ (∀ (b0 b1 b2 b3 b4 b5 b6 b7 : Byte) (more : List Byte), s.frame = .gzip →
          bytes = b0 :: b1 :: b2 :: b3 :: b4 :: b5 :: b6 :: b7 :: more →
          (b3 ++ b2 ++ b1 ++ b0 = crc32Fn s.ckParam s.out ∧ b7 ++ b6 ++ b5 ++ b4 = s.outCount →
              exec (.read arg) s = .next
                { s with
                  bc := { cur := b7, pos := 8, next := s.src.length - more.length }
                  eng := .trailingBytes
                  trail := b3 ++ b2 ++ b1 ++ b0
                  phase := .done
                  resp := .eod })
            ∧ (¬(b3 ++ b2 ++ b1 ++ b0 = crc32Fn s.ckParam s.out ∧ b7 ++ b6 ++ b5 ++ b4 = s.outCount) →
                exec (.read arg) s = .next
                  (failedWith .compressAlgorithmError
                    { s with
                      bc := { cur := b7, pos := 8, next := s.src.length - more.length }
                      eng := .trailingBytes
                      trail := b3 ++ b2 ++ b1 ++ b0 })))
      ∧ ((s.frame = .zlib ∧ bytes.length < 4) ∨ (s.frame = .gzip ∧ bytes.length < 8) →
          ∃ t, exec (.read arg) s = .next t ∧ t = failedWith .unexpectedEndOfStream { s with bc := t.bc, eng := .trailingBytes }
            ∧ t.bc.pos = 8 ∧ t.upcoming = [])

/-! ## Block-level elements -/

/-- BLOCK_STORED: the stored header is read aligned, LEN then NLEN, both little-endian, and checked when both are read
(44_inflate_blocks R274), with `last` written from BFINAL (R271). That it begins after its three header bits (log 3), that it runs in every
phase and engine state (log 25), and that its errors latch in Failed too (log 27), is the model's reading. -/
def Obligations.StoredBlockHeader : Prop :=
  ∀ (s : State) (f : Bool) (l0 l1 n0 n1 : Byte) (more : List Byte),
    (s.src.drop s.bc.next = l0 :: l1 :: n0 :: n1 :: more → (l1 ++ l0 : BitVec 16) ^^^ (n1 ++ n0 : BitVec 16) = (0xFFFF : BitVec 16) →
        exec (.blockStored f) s = .next
          { s with
            last := f
            bc := { cur := n1, pos := 8, next := s.bc.next + 4 }
            storedRem := l1 ++ l0
            eng := .stored })
      ∧ (s.src.drop s.bc.next = l0 :: l1 :: n0 :: n1 :: more → (l1 ++ l0 : BitVec 16) ^^^ (n1 ++ n0 : BitVec 16) ≠ (0xFFFF : BitVec 16) →
          exec (.blockStored f) s = .next
            (failedWith .compressAlgorithmError
              { s with last := f, bc := { cur := n1, pos := 8, next := s.bc.next + 4 } }))
      ∧ (s.bc.next ≤ s.src.length → s.src.length < s.bc.next + 4 →
          ∃ t, exec (.blockStored f) s = .next t
            ∧ t = failedWith .unexpectedEndOfStream { s with last := f, bc := t.bc }
            ∧ t.bc.pos = 8 ∧ t.bc.next = s.src.length)

/-- BLOCK_FIXED installs the fixed tables (44_inflate_blocks R278), with `last` written from BFINAL (R271). That it begins after its three header
bits (log 3), and that it runs in every phase and engine state (log 25), is the model's reading. -/
def Obligations.FixedBlockHeader : Prop :=
  ∀ (s : State) (f : Bool),
    exec (.blockFixed f) s = .next
      { s with
        last := f
        llLen := List.replicate 144 8 ++ List.replicate 112 9 ++ List.replicate 24 7 ++ List.replicate 8 8
        llN := 288
        dLen := List.replicate 32 5
        dN := 32
        eng := .fixedHuffman }

/-- A dynamic header, from its count bits on (DYN_HDR; that the counts are operands already consumed is log 3) and from the block header on
(BLOCK_DYNAMIC). A good one installs the two lists of lengths it transmits; one that fails a count limit, a build or a repeat, whose bits
match no code, or that the source ends in, raises the error of the first of these; either way exactly the bits that the scan of the rules
consumes are consumed (44_inflate_blocks R280 to R289, R292). The scratch it leaves is not stated (log 13). That BLOCK_DYNAMIC begins after
its three header bits (log 3), that both run in every phase and engine state (log 25), and that their errors latch in Failed too (log 27), is
the model's reading. -/
def Obligations.DynamicHeaderInstallsItsLengths : Prop :=
  ∀ s : State,
    (∀ (hlit hdist : BitVec 5) (hclen : BitVec 4),
        ∃ t, exec (.dynHdr hlit hdist hclen) s = .next t
          ∧ DynamicLeaves hlit.toNat hdist.toNat (dynamicOf hlit.toNat hdist.toNat hclen.toNat s.upcoming) s t)
      ∧ (∀ (f : Bool) (hlit hdist hclen bits : List Bool), hlit.length = 5 → hdist.length = 5 → hclen.length = 4 →
          s.upcoming = hlit ++ hdist ++ hclen ++ bits →
          ∃ t, exec (.blockDynamic f) s = .next t
            ∧ DynamicLeaves (bitsValue hlit) (bitsValue hdist) (dynamicOf (bitsValue hlit) (bitsValue hdist) (bitsValue hclen) bits)
                { s with last := f } t)
      ∧ ∀ f : Bool, s.upcoming.length < 14 →
          ∃ t, exec (.blockDynamic f) s = .next t ∧ t.upcoming = []
            ∧ t = failedWith .unexpectedEndOfStream { s with last := f, bc := t.bc }

/-- STORED_HDR's check and effect (44_inflate_blocks R274), and STORED_BYTE (R275). That LEN, NLEN and the byte are operands already consumed, so
that the cursor stays (log 3), that both run in every phase and engine state (log 25), and that an error latches in Failed too (log 27), is
the model's reading. -/
def Obligations.StoredElements : Prop :=
  ∀ (s : State) (len nlen : BitVec 16) (b : Byte),
    (len ^^^ nlen = 0xFFFF → exec (.storedHdr len nlen) s = .next { s with storedRem := len, eng := .stored })
      ∧ (len ^^^ nlen ≠ 0xFFFF → exec (.storedHdr len nlen) s = .next (failedWith .compressAlgorithmError s))
      ∧ (s.win.acq = true → s.storedRem ≠ 0 →
          exec (.storedByte b) s = .next
            { s with
              win := s.win.put b
              out := s.out ++ [b]
              outCount := s.outCount + 1
              storedRem := s.storedRem - 1 })

/-- The code-length symbols: a length, a repeat of the last length, and two repeats of zero; a repeat past the end of the two
alphabets, and a repeat with no length before it, raise MalformedHuffmanStream, and a source that ends in the extra bits
UnexpectedEndOfStream (44_inflate_blocks R285 to R288). That the sequence stands in
`scr.seq` between the symbols is the model's choice (log 13); that a symbol's own code is already consumed (log 3), that it runs in every
phase and engine state, CL_LEN on a full sequence too (log 25), and that an error latches in Failed too (log 27), is its reading. -/
def Obligations.CodeLengthSymbols : Prop :=
  ∀ s : State,
    (∀ l : BitVec 4, exec (.clLen l) s = .next { s with scr := { s.scr with seq := s.scr.seq ++ [l.toNat] } })
      ∧ (s.scr.seq = [] → exec .clRep16 s = .next (failedWith .malformedHuffmanStream s))
      ∧ (∀ (i : Instr) (l base n : Nat) (e rest : List Bool),
          (i = .clRep16 ∧ s.scr.seq.getLast? = some l ∧ base = 3 ∧ n = 2) ∨ (i = .clRep17 ∧ l = 0 ∧ base = 3 ∧ n = 3)
            ∨ (i = .clRep18 ∧ l = 0 ∧ base = 11 ∧ n = 7) →
          s.upcoming = e ++ rest → e.length = n →
          ∃ t, exec i s = .next t ∧ t.upcoming = rest
            ∧ (s.scr.seq.length + (base + bitsValue e) ≤ s.scr.nLit + s.scr.nDist →
                t = { s with
                      bc := t.bc
                      scr := { s.scr with seq := s.scr.seq ++ List.replicate (base + bitsValue e) l } })
            ∧ (s.scr.nLit + s.scr.nDist < s.scr.seq.length + (base + bitsValue e) →
                t = failedWith .malformedHuffmanStream { s with bc := t.bc }))
      ∧ ∀ (i : Instr) (n : Nat),
          (i = .clRep16 ∧ s.scr.seq ≠ [] ∧ n = 2) ∨ (i = .clRep17 ∧ n = 3) ∨ (i = .clRep18 ∧ n = 7) → s.upcoming.length < n →
          ∃ t, exec i s = .next t ∧ t.upcoming = [] ∧ t = failedWith .unexpectedEndOfStream { s with bc := t.bc }

/-! ## Symbol-level elements -/

/-- LIT puts its byte into the window and emits it (45_inflate_symbols R302): the window's byte at the write index is the literal, and
the write index moves on modulo the capacity (43_sliding_window R233). EOB ends the block (45_inflate_symbols R303, 44_inflate_blocks R290). That a
symbol's own code is already consumed (log 3), and that both run in every phase and engine state and while a copy is outstanding (log 25), is
the model's reading. -/
def Obligations.LiteralAndEndOfBlock : Prop :=
  ∀ (s : State) (b : Byte),
    (s.win.acq = true →
        ∃ t, exec (.lit b) s = .next t
          ∧ t = { s with win := t.win, out := s.out ++ [b], outCount := s.outCount + 1 }
          ∧ Memory.read t.win.mem s.win.wptr = some b
          ∧ t.win.wptr = (s.win.wptr + 1) % 32768
          ∧ t.win.filled = min (s.win.filled + 1) 32768
          ∧ t.win.maxDist = s.win.maxDist ∧ t.win.acq = true)
      ∧ (s.last = true → exec .eob s = .next { s with eng := .lastBlockFree })
      ∧ (s.last = false → exec .eob s = .next { s with eng := .blockFree })

/-- The 29 length symbols (45_inflate_symbols R304 to R306, R371; 41_canonical_huffman R195, R196): the extra bits, the distance code and its
extra bits are read, and the pending copy is the length and the distance. A source that ends in any of them raises UnexpectedEndOfStream,
bits that are no distance code, or an empty distance code, raise MalformedHuffmanStream, and distance symbols 30 and 31 raise what
DIST30_31_MODE says; the pending copy is then kept, and exactly the bits scanned are consumed. That the symbol's own code has been read
before (log 3), that the length stands in `scr.len` (log 13), that it runs in every phase and engine state and while a copy is outstanding,
which it overwrites (log 25), and that an error latches in Failed too (log 27), is the model's. -/
def Obligations.LengthSymbols : Prop :=
  ∀ (s : State) (i : Instr) (base ext : Nat) (tab : CodeTable), (i, base, ext) ∈ lenTable → buildCodes s.dLengths = .ok tab →
    ∃ t, exec i s = .next t ∧
      match pairOf s.distMode tab base ext s.upcoming with
      | .good (length, dist) rest =>
        t.upcoming = rest
          ∧ t = { s with bc := t.bc, scr := { s.scr with len := length }, pendLen := length, pendDist := dist }
          ∧ 3 ≤ length ∧ length ≤ 258 ∧ 1 ≤ dist ∧ dist ≤ 32768
      | .bad e rest =>
        t.upcoming = rest ∧ t = failedWith e { s with bc := t.bc, scr := { s.scr with len := t.scr.len } }

/-- The 30 distance symbols (45_inflate_symbols R306, R340 to R369): the extra bits are read and the pending copy is written, with the
length that came before (the model keeps it in `scr.len`, log 13); a source that ends in the extra bits raises UnexpectedEndOfStream, with
the pending copy kept. That the symbol's own code has been read before (log 3), that it runs in every phase and engine state and while a
copy is outstanding, which it overwrites (log 25), and that an error latches in Failed too (log 27), is the model's reading. -/
def Obligations.DistanceSymbols : Prop :=
  ∀ (s : State) (i : Instr) (base ext : Nat), (i, base, ext) ∈ distTable →
    (∀ e rest : List Bool, s.upcoming = e ++ rest → e.length = ext →
        ∃ t, exec i s = .next t ∧ t.upcoming = rest
          ∧ t = { s with bc := t.bc, pendLen := s.scr.len, pendDist := base + bitsValue e }
          ∧ 1 ≤ t.pendDist ∧ t.pendDist ≤ 32768)
      ∧ (s.upcoming.length < ext →
          ∃ t, exec i s = .next t ∧ t.upcoming = [] ∧ t = failedWith .unexpectedEndOfStream { s with bc := t.bc })

/-- The reserved values of the elements raise (30_encoding R119): BTYPE 3 with `last` written and the engine state kept
(44_inflate_blocks R273); a dynamic header with more than 286 literal/length or 30 distance symbols, before any code length is read (R281);
literal/length symbols 286 and 287 (45_inflate_symbols R370); distance symbols 30 and 31, as DIST30_31_MODE says (R371). That the bits of each
value are already consumed (log 3), that they raise in every phase and engine state and while a copy is outstanding (log 25), and that they
latch in Failed too (log 27), is the model's reading. -/
def Obligations.ReservedElementValuesRaise : Prop :=
  ∀ (s : State) (f : Bool) (hlit hdist : BitVec 5) (hclen : BitVec 4) (low : BitVec 1),
    exec (.blockReserved f) s = .next (failedWith .malformedBlockType { s with last := f })
      ∧ (286 < hlit.toNat + 257 ∨ 30 < hdist.toNat + 1 →
          exec (.dynHdr hlit hdist hclen) s = .next (failedWith .malformedHuffmanStream s))
      ∧ exec (.litlenInvalid low) s = .next (failedWith .malformedHuffmanStream s)
      ∧ (s.distMode = .reject → exec (.distInvalid low) s = .next (failedWith .malformedHuffmanStream s))
      ∧ (s.distMode = .illegalDistance → exec (.distInvalid low) s = .next (failedWith .illegalDistance s))

/-! ## Containers -/

/-- ZLIB_HDR's four checks and the window it creates (46_frame_parser R403 to R408); that its value is an operand already consumed, so that the
cursor stays (log 3), that it runs in every phase and engine state (log 25), and that its error latches in Failed too (log 27), is the
model's reading. READ in Header of a zlib session reads the two bytes, takes them big-endian, and goes on as a
READ in Body with the window created; a failed check fails with both bytes read, and a source with fewer than two bytes fails at its end
(R402, R400). -/
def Obligations.ZlibHeader : Prop :=
  (∀ (s : State) (h : BitVec 16),
    (h.toNat % 31 = 0 ∧ h.toNat / 256 % 16 = 8 ∧ h.toNat / 4096 < 8 ∧ h.getLsbD 5 = false →
        exec (.zlibHdr h) s = .next
          { s with
            win := { mem := s.win.mem, wptr := 0, filled := 0, maxDist := 2 ^ (h.toNat / 4096 + 8), acq := true } })
      ∧ (¬(h.toNat % 31 = 0 ∧ h.toNat / 256 % 16 = 8 ∧ h.toNat / 4096 < 8 ∧ h.getLsbD 5 = false) →
          exec (.zlibHdr h) s = .next (failedWith .compressAlgorithmError s)))
    ∧ ∀ (s : State) (arg : BitVec 24), s.phase = .header → s.frame = .zlib →
      (∀ (cmf flg : Byte) (more : List Byte), s.src.drop s.bc.next = cmf :: flg :: more →
          ((cmf.toNat * 256 + flg.toNat) % 31 = 0 ∧ cmf.toNat % 16 = 8 ∧ cmf.toNat / 16 < 8 ∧ flg.getLsbD 5 = false →
              exec (.read arg) s = exec (.read arg)
                { s with
                  bc := { cur := flg, pos := 8, next := s.bc.next + 2 }
                  win := { mem := s.win.mem, wptr := 0, filled := 0, maxDist := 2 ^ (cmf.toNat / 16 + 8), acq := true }
                  phase := .body })
            ∧ (¬((cmf.toNat * 256 + flg.toNat) % 31 = 0 ∧ cmf.toNat % 16 = 8 ∧ cmf.toNat / 16 < 8 ∧ flg.getLsbD 5 = false) →
                exec (.read arg) s = .next
                  (failedWith .compressAlgorithmError { s with bc := { cur := flg, pos := 8, next := s.bc.next + 2 } })))
        ∧ ((s.src.drop s.bc.next).length < 2 →
            ∃ t, exec (.read arg) s = .next t ∧ t = failedWith .unexpectedEndOfStream { s with bc := t.bc } ∧ t.bc.pos = 8
              ∧ t.upcoming = [])

/-- GZIP_HDR (46_frame_parser R410 to R418): ID1, ID2, CM and FLG[7:5] are checked; six bytes, the extra field, the name, the comment and the
header CRC are skipped, each optional one when its flag is set (`GzipTail`); a source that ends among them raises UnexpectedEndOfStream. That
the first four bytes are an operand already consumed (log 3) and checked together (log 22), that the element runs in every phase and engine
state (log 25), and that its errors latch in Failed too (log 27), is the model's reading. READ in Header of a gzip
session checks each of the four as it is read, skips the rest, and goes on as a READ in Body; the first bad byte fails with it read, and a
source that ends in the header fails at its end (R410, R400). -/
def Obligations.GzipHeader : Prop :=
  (∀ (s : State) (flg : Byte) (g : List Byte), flg.toNat < 32 → GzipTail flg g →
      (∀ more, s.src.drop s.bc.next = g ++ more →
          ∃ t, exec (.gzipHdr (flg ++ (0x088B1F : BitVec 24))) s = .next t ∧ t = { s with bc := t.bc } ∧ t.bc.pos = 8
            ∧ t.bc.next = s.bc.next + g.length)
        ∧ (∀ p, s.src.drop s.bc.next = p → p <+: g → p ≠ g →
            ∃ t, exec (.gzipHdr (flg ++ (0x088B1F : BitVec 24))) s = .next t
              ∧ t = failedWith .unexpectedEndOfStream { s with bc := t.bc } ∧ t.bc.pos = 8 ∧ t.upcoming = [])
        ∧ ∀ arg : BitVec 24, s.phase = .header → s.frame = .gzip →
          (∀ more, s.src.drop s.bc.next = 0x1F :: 0x8B :: 0x08 :: flg :: (g ++ more) →
              ∃ u, u = { s with bc := u.bc, phase := .body } ∧ u.bc.pos = 8 ∧ u.bc.next = s.bc.next + (4 + g.length)
                ∧ exec (.read arg) s = exec (.read arg) u)
            ∧ ∀ p, s.src.drop s.bc.next = p → p <+: 0x1F :: 0x8B :: 0x08 :: flg :: g → p ≠ 0x1F :: 0x8B :: 0x08 :: flg :: g →
                ∃ t, exec (.read arg) s = .next t ∧ t = failedWith .unexpectedEndOfStream { s with bc := t.bc } ∧ t.bc.pos = 8
                  ∧ t.upcoming = [])
    ∧ (∀ (s : State) (start : BitVec 32), start.toNat % 2 ^ 24 ≠ 0x088B1F ∨ 2 ^ 29 ≤ start.toNat →
        exec (.gzipHdr start) s = .next (failedWith .compressAlgorithmError s))
    ∧ ∀ (s : State) (arg : BitVec 24) (good : List Byte) (b : Byte) (more : List Byte), s.phase = .header → s.frame = .gzip →
      s.src.drop s.bc.next = good ++ b :: more →
      (good = [] ∧ b ≠ 0x1F) ∨ (good = [0x1F] ∧ b ≠ 0x8B) ∨ (good = [0x1F, 0x8B] ∧ b ≠ 0x08)
        ∨ (good = [0x1F, 0x8B, 0x08] ∧ 32 ≤ b.toNat) →
      exec (.read arg) s = .next
        (failedWith .compressAlgorithmError { s with bc := { cur := b, pos := 8, next := s.bc.next + (good.length + 1) } })

/-- ZLIB_TRL and GZIP_TRL (46_frame_parser R421, R422): TRAIL holds what was read, and a mismatch raises CompressAlgorithmError. That
the trailer's bytes are operands already consumed, so that the cursor stays (log 3), that both run in every phase and engine state (log 25),
and that their error latches in Failed too (log 27), is the model's reading. -/
def Obligations.TrailerElements : Prop :=
  ∀ (s : State) (v isize : Word),
    (v = adler32Fn s.ckParam s.out → exec (.zlibTrl v) s = .next { s with trail := v })
      ∧ (v ≠ adler32Fn s.ckParam s.out →
          exec (.zlibTrl v) s = .next (failedWith .compressAlgorithmError { s with trail := v }))
      ∧ (v = crc32Fn s.ckParam s.out ∧ isize = s.outCount → exec (.gzipTrl v isize) s = .next { s with trail := v })
      ∧ (¬(v = crc32Fn s.ckParam s.out ∧ isize = s.outCount) →
          exec (.gzipTrl v isize) s = .next (failedWith .compressAlgorithmError { s with trail := v }))

/-! ## Canonical codes -/

/-- `BuildCodes` accepts exactly the length lists with no entry above 15 and no oversubscription; the table's codes are the used
symbols in order with their lengths; a code's value is `nextCode` of its length, which sums `2 ^ (len - L)` over the used symbols of a shorter
length `L`, and one more for each symbol before it of the same length (41_canonical_huffman R180 to R187). -/
def Obligations.BuildCodesAcceptance : Prop :=
  ∀ lengths : List Nat,
    ((∃ tab, buildCodes lengths = .ok tab)
        ↔ (∀ L ∈ lengths, L ≤ 15) ∧ ((lengths.filter (0 < ·)).map fun L => 2 ^ (15 - L)).sum ≤ 2 ^ 15)
      ∧ (∀ e, buildCodes lengths = .error e → e = .malformedHuffmanStream)
      ∧ ∀ tab, buildCodes lengths = .ok tab →
          tab.codes.map (fun c => (c.sym, c.len)) = (lengths.zipIdx.filter (0 < ·.1)).map (fun p => (p.2, p.1))
            ∧ (∀ c ∈ tab.codes,
                c.val = ((lengths.filter fun L => decide (0 < L ∧ L < c.len)).map fun L => 2 ^ (c.len - L)).sum
                  + (lengths.take c.sym).count c.len)
            ∧ (∀ L ∈ lengths, L ≤ tab.maxLen) ∧ (tab.maxLen = 0 ∨ tab.maxLen ∈ lengths)

/-- A built table's code values fit their lengths, and no code is a prefix of another's (41_canonical_huffman R185). -/
def Obligations.BuiltCodesArePrefixFree : Prop :=
  ∀ (lengths : List Nat) (tab : CodeTable), buildCodes lengths = .ok tab →
    (∀ c ∈ tab.codes, c.val < 2 ^ c.len)
      ∧ ∀ c ∈ tab.codes, ∀ d ∈ tab.codes, codeBits c.val c.len <+: codeBits d.val d.len → c = d

/-- The fixed codes are the patterns of 30_encoding R114 and R115 (41_canonical_huffman R190, R191). -/
def Obligations.FixedCodesArePatterns : Prop :=
  (∃ tab, buildCodes fixedLitlenLengths = .ok tab
      ∧ ∀ sym, sym < 288 → ∃ c ∈ tab.codes, c.sym = sym ∧ codeBits c.val c.len = fixedLitlenBits sym)
    ∧ ∃ tab, buildCodes fixedDistLengths = .ok tab
      ∧ ∀ sym, sym < 32 → ∃ c ∈ tab.codes, c.sym = sym ∧ c.len = 5 ∧ c.val = sym

/-- HUF_BUILD returns the table of its lengths, or raises (41_canonical_huffman R180); HUF_DECODE returns the symbol whose code comes
next in the stream, most significant code bit first, whichever symbol of whichever table it is (42_symbol_resolver R211). An empty
table raises and reads no bit (R213). Where no code matches, MalformedHuffmanStream comes after exactly `maxLen` bits (R212), and
UnexpectedEndOfStream where the source ends before them (R215). The table is given by its lengths (log 11), the
result stands in `ret` (log 7), and an error latches in every phase (log 27). -/
def Obligations.ResolverDecodesEveryCode : Prop :=
  ∀ (s : State) (lengths : List Nat),
    (∀ tab, buildCodes lengths = .ok tab → exec (.hufBuild lengths) s = .next { s with ret := .table tab })
      ∧ (∀ e, buildCodes lengths = .error e → exec (.hufBuild lengths) s = .next (failedWith e s))
      ∧ (∀ (tab : CodeTable) (c : Code) (rest : List Bool), buildCodes lengths = .ok tab → c ∈ tab.codes →
          s.upcoming = codeBits c.val c.len ++ rest →
          ∃ t, exec (.hufDecode lengths) s = .next t ∧ t = { s with bc := t.bc, ret := .symbol c.sym } ∧ t.upcoming = rest)
      ∧ (∀ tab, buildCodes lengths = .ok tab → tab.codes = [] →
          exec (.hufDecode lengths) s = .next (failedWith .malformedHuffmanStream s))
      ∧ (∀ (tab : CodeTable) (bits rest : List Bool), buildCodes lengths = .ok tab → s.upcoming = bits ++ rest →
          bits.length = tab.maxLen → (∀ c ∈ tab.codes, ¬ codeBits c.val c.len <+: bits) →
          ∃ t, exec (.hufDecode lengths) s = .next t ∧ t.upcoming = rest
            ∧ t = failedWith .malformedHuffmanStream { s with bc := t.bc })
      ∧ ∀ tab : CodeTable, buildCodes lengths = .ok tab → s.upcoming.length < tab.maxLen →
          (∀ c ∈ tab.codes, ¬ codeBits c.val c.len <+: s.upcoming) →
          ∃ t, exec (.hufDecode lengths) s = .next t ∧ t.upcoming = []
            ∧ t = failedWith .unexpectedEndOfStream { s with bc := t.bc }

/-! ## Micro-operations -/

/-- BC_READ_BIT (40_bit_cursor R161): the next bit, with no byte pulled before a bit of it is needed (R170); at the end of the source
UnexpectedEndOfStream, with the cursor kept, latched in every phase (log 27). The result stands in `ret` (log 7). -/
def Obligations.ReadBitTakesTheNextBit : Prop :=
  ∀ s : State,
    (∀ b rest, s.upcoming = b :: rest →
        ∃ t, exec .bcReadBit s = .next t ∧ t = { s with bc := t.bc, ret := .bit b } ∧ t.upcoming = rest
          ∧ t.bc.next = (if s.bc.pos = 8 then s.bc.next + 1 else s.bc.next))
      ∧ (s.upcoming = [] → exec .bcReadBit s = .next (failedWith .unexpectedEndOfStream s))

/-- BC_READ_BITS (40_bit_cursor R162): the first bit read is bit 0; 0 bits read nothing (R166); a byte is pulled only when a bit of it is
needed (R170); a source that ends first raises UnexpectedEndOfStream with every bit consumed, latched in every phase (log 27); more than 24
bits are refused (R167). The result stands in `ret` (log 7). -/
def Obligations.ReadBitsTakesTheNextField : Prop :=
  ∀ (s : State) (n : Nat),
    (∀ bits rest, n ≤ 24 → s.upcoming = bits ++ rest → bits.length = n →
        ∃ t, exec (.bcReadBits n) s = .next t ∧ t = { s with bc := t.bc, ret := .value (bitsValue bits) }
          ∧ t.upcoming = rest ∧ (n = 0 → t.bc = s.bc) ∧ t.bc.next = s.bc.next + (n + s.bc.pos.val - 1) / 8)
      ∧ (n ≤ 24 → s.upcoming.length < n →
          ∃ t, exec (.bcReadBits n) s = .next t ∧ t = failedWith .unexpectedEndOfStream { s with bc := t.bc }
            ∧ t.upcoming = [] ∧ t.bc.pos = 8 ∧ t.bc.next = max s.bc.next s.src.length)
      ∧ (24 < n → exec (.bcReadBits n) s = .refused .readBitsTooWide)

/-- BC_ALIGN (40_bit_cursor R163), BC_READ_ALIGNED_BYTE (R164) and BC_GET_BIT (R168). Results stand in `ret` (log 7), a peek beyond
the buffered bits rejects through the response (log 12), and an error latches in every phase (log 27). -/
def Obligations.AlignedReads : Prop :=
  ∀ s : State,
    exec .bcAlign s = .next { s with bc := { s.bc with pos := 8 }, ret := .none }
      ∧ (∀ b, s.src[s.bc.next]? = some b →
          exec .bcReadAlignedByte s = .next { s with bc := { cur := b, pos := 8, next := s.bc.next + 1 }, ret := .byte b })
      ∧ (s.src[s.bc.next]? = none →
          exec .bcReadAlignedByte s = .next (failedWith .unexpectedEndOfStream { s with bc := { s.bc with pos := 8 } }))
      ∧ ∀ k : Nat,
        (k < 8 - s.bc.pos.val →
            exec (.bcGetBit k) s = .next { s with ret := .bit (s.bc.cur.getLsbD (s.bc.pos.val + k)) })
          ∧ (8 - s.bc.pos.val ≤ k → exec (.bcGetBit k) s = .next { s with resp := .reject .badArg })

/-- What the spec refuses: a host access that is not one whole aligned word (20_memory R89), and the puts and copies of a window that
is not held (43_sliding_window R244; 60_exceptions R492), which before any window was created is the model's reading (log 9). -/
def Obligations.ContractViolationsAreRefused : Prop :=
  ∀ (s : State) (rest : List Request) (off size : Nat) (v : Word) (b : Byte) (bytes : List Byte) (d n : Nat),
    (¬(size = 4 ∧ off % 4 = 0) → s.queue = .read off size :: rest ∨ s.queue = .write off size v :: rest →
        step s = .refused .hostAccessNotWord)
      ∧ (s.win.acq = false →
          exec (.winPut b) s = .refused .windowNotHeld
            ∧ exec (.winPutBulk n bytes) s = .refused .windowNotHeld
            ∧ exec (.winCopy d) s = .refused .windowNotHeld
            ∧ exec (.winCopyBulk d n) s = .refused .windowNotHeld)

/-- WIN_CREATE, WIN_CLEAR, WIN_RELEASE, WIN_AVAILABLE and WIN_SET_CAP (43_sliding_window R231, R232, R241, R242, R243). That a
released window's storage keeps its bytes is the model's choice (log 28), and that WIN_CLEAR and WIN_SET_CAP run on a window not held is
its reading (log 29). -/
def Obligations.WindowControl : Prop :=
  ∀ (s : State) (m : Nat),
    (1 ≤ m → m ≤ 32768 →
        exec (.winCreate m) s = .next
          { s with win := { mem := s.win.mem, wptr := 0, filled := 0, maxDist := m, acq := true }, ret := .none })
      ∧ exec .winClear s = .next { s with win := { s.win with wptr := 0, filled := 0 }, ret := .none }
      ∧ exec .winRelease s = .next { s with win := { s.win with acq := false }, ret := .flag s.win.acq }
      ∧ exec .winAvailable s = .next { s with ret := .distance s.win.maxDist }
      ∧ (1 ≤ m → m ≤ s.win.maxDist → exec (.winSetCap m) s = .next { s with win := { s.win with maxDist := m }, ret := .flag true })
      ∧ (m = 0 ∨ s.win.maxDist < m → exec (.winSetCap m) s = .next { s with ret := .flag false })

/-- WIN_PUT (43_sliding_window R233) and WIN_PUT_BULK, which is that many puts in order (R238). -/
def Obligations.WindowPuts : Prop :=
  ∀ (s : State) (b : Byte) (bytes : List Byte) (maxLen : Nat), s.win.acq = true →
    (∃ t, exec (.winPut b) s = .next t ∧ t = { s with win := t.win, ret := .none }
        ∧ Memory.read t.win.mem s.win.wptr = some b ∧ t.win.wptr = (s.win.wptr + 1) % 32768
        ∧ t.win.filled = min (s.win.filled + 1) 32768 ∧ t.win.maxDist = s.win.maxDist ∧ t.win.acq = true)
      ∧ exec (.winPutBulk maxLen bytes) s = .next
          { s with
            win := (bytes.take maxLen).foldl (fun w b => w.put b) s.win
            ret := .count (min maxLen bytes.length) }

/-- WIN_COPY (43_sliding_window R237): a legal distance gives the byte at that look-back distance, which is put; any other raises
IllegalDistance with nothing written (R235), latched in every phase (log 27). The result stands in `ret` (log 7). -/
def Obligations.WindowCopy : Prop :=
  ∀ (s : State) (d : Nat), s.win.acq = true →
    (Inv s → 0 < d → d ≤ s.win.maxDist → d ≤ s.win.filled →
        ∃ b, s.win.look d = some b ∧ exec (.winCopy d) s = .next { s with win := s.win.put b, ret := .byte b })
      ∧ (d = 0 ∨ s.win.maxDist < d ∨ s.win.filled < d → exec (.winCopy d) s = .next (failedWith .illegalDistance s))

/-- WIN_COPY_BULK (43_sliding_window R240) reads bytes the same copy wrote (20_memory R96): byte `k` is the one `d - k` back where the
copy began, and from `k = d` on it is byte `k - d` of the copy. A distance that is not legal raises IllegalDistance at the first byte, with
nothing written, latched in every phase (log 27); a copy of no bytes answers 0 and checks no distance. The result stands in `ret` (log 7). -/
def Obligations.BulkCopyOverlaps : Prop :=
  ∀ (s : State) (d n : Nat), s.win.acq = true →
    (Inv s → 0 < d → d ≤ s.win.maxDist → d ≤ s.win.filled →
        ∃ bs, bs.length = n
          ∧ (∀ k, k < n → k < d → bs[k]? = s.win.look (d - k))
          ∧ (∀ k, k < n → d ≤ k → bs[k]? = bs[k - d]?)
          ∧ exec (.winCopyBulk d n) s = .next
              { s with win := bs.foldl (fun w b => w.put b) s.win, ret := .copied n bs })
      ∧ (0 < n → d = 0 ∨ s.win.maxDist < d ∨ s.win.filled < d →
          exec (.winCopyBulk d n) s = .next (failedWith .illegalDistance s))
      ∧ exec (.winCopyBulk d 0) s = .next { s with ret := .copied 0 [] }
end

