-- ==== Sys2Proof/Laws/State.lean ====
section
/-! SUPPORT. One lemma per field per named update of the state, so that no proof unfolds an update. -/

namespace Sys2Proof.Machine

open Sys2Proof

variable (s : State)

@[simp] theorem latch_phase (e : StreamError) : (s.latch e).phase = .failed := rfl
@[simp] theorem latch_eng (e : StreamError) : (s.latch e).eng = s.eng := rfl
@[simp] theorem latch_last (e : StreamError) : (s.latch e).last = s.last := rfl
@[simp] theorem latch_frame (e : StreamError) : (s.latch e).frame = s.frame := rfl
@[simp] theorem latch_storedRem (e : StreamError) : (s.latch e).storedRem = s.storedRem := rfl
@[simp] theorem latch_bc (e : StreamError) : (s.latch e).bc = s.bc := rfl
@[simp] theorem latch_llLen (e : StreamError) : (s.latch e).llLen = s.llLen := rfl
@[simp] theorem latch_llN (e : StreamError) : (s.latch e).llN = s.llN := rfl
@[simp] theorem latch_dLen (e : StreamError) : (s.latch e).dLen = s.dLen := rfl
@[simp] theorem latch_dN (e : StreamError) : (s.latch e).dN = s.dN := rfl
@[simp] theorem latch_pendLen (e : StreamError) : (s.latch e).pendLen = s.pendLen := rfl
@[simp] theorem latch_pendDist (e : StreamError) : (s.latch e).pendDist = s.pendDist := rfl
@[simp] theorem latch_win (e : StreamError) : (s.latch e).win = s.win := rfl
@[simp] theorem latch_out (e : StreamError) : (s.latch e).out = s.out := rfl
@[simp] theorem latch_outCount (e : StreamError) : (s.latch e).outCount = s.outCount := rfl
@[simp] theorem latch_err (e : StreamError) : (s.latch e).err = some e := rfl
@[simp] theorem latch_resp (e : StreamError) : (s.latch e).resp = .error e.code := rfl
@[simp] theorem latch_cfgFrame (e : StreamError) : (s.latch e).cfgFrame = s.cfgFrame := rfl
@[simp] theorem latch_maxDistReg (e : StreamError) : (s.latch e).maxDistReg = s.maxDistReg := rfl
@[simp] theorem latch_trail (e : StreamError) : (s.latch e).trail = s.trail := rfl
@[simp] theorem latch_scr (e : StreamError) : (s.latch e).scr = s.scr := rfl
@[simp] theorem latch_src (e : StreamError) : (s.latch e).src = s.src := rfl
@[simp] theorem latch_supply (e : StreamError) : (s.latch e).supply = s.supply := rfl
@[simp] theorem latch_distMode (e : StreamError) : (s.latch e).distMode = s.distMode := rfl
@[simp] theorem latch_ckParam (e : StreamError) : (s.latch e).ckParam = s.ckParam := rfl
@[simp] theorem latch_queue (e : StreamError) : (s.latch e).queue = s.queue := rfl
@[simp] theorem latch_busData (e : StreamError) : (s.latch e).busData = s.busData := rfl
@[simp] theorem latch_ret (e : StreamError) : (s.latch e).ret = s.ret := rfl

@[simp] theorem respond_phase (r : Resp) : (s.respond r).phase = s.phase := rfl
@[simp] theorem respond_eng (r : Resp) : (s.respond r).eng = s.eng := rfl
@[simp] theorem respond_last (r : Resp) : (s.respond r).last = s.last := rfl
@[simp] theorem respond_frame (r : Resp) : (s.respond r).frame = s.frame := rfl
@[simp] theorem respond_storedRem (r : Resp) : (s.respond r).storedRem = s.storedRem := rfl
@[simp] theorem respond_bc (r : Resp) : (s.respond r).bc = s.bc := rfl
@[simp] theorem respond_llLen (r : Resp) : (s.respond r).llLen = s.llLen := rfl
@[simp] theorem respond_llN (r : Resp) : (s.respond r).llN = s.llN := rfl
@[simp] theorem respond_dLen (r : Resp) : (s.respond r).dLen = s.dLen := rfl
@[simp] theorem respond_dN (r : Resp) : (s.respond r).dN = s.dN := rfl
@[simp] theorem respond_pendLen (r : Resp) : (s.respond r).pendLen = s.pendLen := rfl
@[simp] theorem respond_pendDist (r : Resp) : (s.respond r).pendDist = s.pendDist := rfl
@[simp] theorem respond_win (r : Resp) : (s.respond r).win = s.win := rfl
@[simp] theorem respond_out (r : Resp) : (s.respond r).out = s.out := rfl
@[simp] theorem respond_outCount (r : Resp) : (s.respond r).outCount = s.outCount := rfl
@[simp] theorem respond_err (r : Resp) : (s.respond r).err = s.err := rfl
@[simp] theorem respond_resp (r : Resp) : (s.respond r).resp = r := rfl
@[simp] theorem respond_cfgFrame (r : Resp) : (s.respond r).cfgFrame = s.cfgFrame := rfl
@[simp] theorem respond_maxDistReg (r : Resp) : (s.respond r).maxDistReg = s.maxDistReg := rfl
@[simp] theorem respond_trail (r : Resp) : (s.respond r).trail = s.trail := rfl
@[simp] theorem respond_scr (r : Resp) : (s.respond r).scr = s.scr := rfl
@[simp] theorem respond_src (r : Resp) : (s.respond r).src = s.src := rfl
@[simp] theorem respond_supply (r : Resp) : (s.respond r).supply = s.supply := rfl
@[simp] theorem respond_distMode (r : Resp) : (s.respond r).distMode = s.distMode := rfl
@[simp] theorem respond_ckParam (r : Resp) : (s.respond r).ckParam = s.ckParam := rfl
@[simp] theorem respond_queue (r : Resp) : (s.respond r).queue = s.queue := rfl
@[simp] theorem respond_busData (r : Resp) : (s.respond r).busData = s.busData := rfl
@[simp] theorem respond_ret (r : Resp) : (s.respond r).ret = s.ret := rfl

@[simp] theorem releaseWindow_phase : (s.releaseWindow).phase = s.phase := rfl
@[simp] theorem releaseWindow_eng : (s.releaseWindow).eng = s.eng := rfl
@[simp] theorem releaseWindow_last : (s.releaseWindow).last = s.last := rfl
@[simp] theorem releaseWindow_frame : (s.releaseWindow).frame = s.frame := rfl
@[simp] theorem releaseWindow_storedRem : (s.releaseWindow).storedRem = s.storedRem := rfl
@[simp] theorem releaseWindow_bc : (s.releaseWindow).bc = s.bc := rfl
@[simp] theorem releaseWindow_llLen : (s.releaseWindow).llLen = s.llLen := rfl
@[simp] theorem releaseWindow_llN : (s.releaseWindow).llN = s.llN := rfl
@[simp] theorem releaseWindow_dLen : (s.releaseWindow).dLen = s.dLen := rfl
@[simp] theorem releaseWindow_dN : (s.releaseWindow).dN = s.dN := rfl
@[simp] theorem releaseWindow_pendLen : (s.releaseWindow).pendLen = s.pendLen := rfl
@[simp] theorem releaseWindow_pendDist : (s.releaseWindow).pendDist = s.pendDist := rfl
@[simp] theorem releaseWindow_win : (s.releaseWindow).win = { s.win with acq := false } := rfl
@[simp] theorem releaseWindow_out : (s.releaseWindow).out = s.out := rfl
@[simp] theorem releaseWindow_outCount : (s.releaseWindow).outCount = s.outCount := rfl
@[simp] theorem releaseWindow_err : (s.releaseWindow).err = s.err := rfl
@[simp] theorem releaseWindow_resp : (s.releaseWindow).resp = s.resp := rfl
@[simp] theorem releaseWindow_cfgFrame : (s.releaseWindow).cfgFrame = s.cfgFrame := rfl
@[simp] theorem releaseWindow_maxDistReg : (s.releaseWindow).maxDistReg = s.maxDistReg := rfl
@[simp] theorem releaseWindow_trail : (s.releaseWindow).trail = s.trail := rfl
@[simp] theorem releaseWindow_scr : (s.releaseWindow).scr = s.scr := rfl
@[simp] theorem releaseWindow_src : (s.releaseWindow).src = s.src := rfl
@[simp] theorem releaseWindow_supply : (s.releaseWindow).supply = s.supply := rfl
@[simp] theorem releaseWindow_distMode : (s.releaseWindow).distMode = s.distMode := rfl
@[simp] theorem releaseWindow_ckParam : (s.releaseWindow).ckParam = s.ckParam := rfl
@[simp] theorem releaseWindow_queue : (s.releaseWindow).queue = s.queue := rfl
@[simp] theorem releaseWindow_busData : (s.releaseWindow).busData = s.busData := rfl
@[simp] theorem releaseWindow_ret : (s.releaseWindow).ret = s.ret := rfl

@[simp] theorem endSession_phase : (s.endSession).phase = if s.phase = .idle then .idle else .released := rfl
@[simp] theorem endSession_eng : (s.endSession).eng = s.eng := rfl
@[simp] theorem endSession_last : (s.endSession).last = s.last := rfl
@[simp] theorem endSession_frame : (s.endSession).frame = s.frame := rfl
@[simp] theorem endSession_storedRem : (s.endSession).storedRem = s.storedRem := rfl
@[simp] theorem endSession_bc : (s.endSession).bc = s.bc := rfl
@[simp] theorem endSession_llLen : (s.endSession).llLen = s.llLen := rfl
@[simp] theorem endSession_llN : (s.endSession).llN = s.llN := rfl
@[simp] theorem endSession_dLen : (s.endSession).dLen = s.dLen := rfl
@[simp] theorem endSession_dN : (s.endSession).dN = s.dN := rfl
@[simp] theorem endSession_pendLen : (s.endSession).pendLen = s.pendLen := rfl
@[simp] theorem endSession_pendDist : (s.endSession).pendDist = s.pendDist := rfl
@[simp] theorem endSession_win : (s.endSession).win = s.win := rfl
@[simp] theorem endSession_out : (s.endSession).out = s.out := rfl
@[simp] theorem endSession_outCount : (s.endSession).outCount = s.outCount := rfl
@[simp] theorem endSession_err : (s.endSession).err = s.err := rfl
@[simp] theorem endSession_resp : (s.endSession).resp = s.resp := rfl
@[simp] theorem endSession_cfgFrame : (s.endSession).cfgFrame = s.cfgFrame := rfl
@[simp] theorem endSession_maxDistReg : (s.endSession).maxDistReg = s.maxDistReg := rfl
@[simp] theorem endSession_trail : (s.endSession).trail = s.trail := rfl
@[simp] theorem endSession_scr : (s.endSession).scr = s.scr := rfl
@[simp] theorem endSession_src : (s.endSession).src = s.src := rfl
@[simp] theorem endSession_supply : (s.endSession).supply = s.supply := rfl
@[simp] theorem endSession_distMode : (s.endSession).distMode = s.distMode := rfl
@[simp] theorem endSession_ckParam : (s.endSession).ckParam = s.ckParam := rfl
@[simp] theorem endSession_queue : (s.endSession).queue = s.queue := rfl
@[simp] theorem endSession_busData : (s.endSession).busData = s.busData := rfl
@[simp] theorem endSession_ret : (s.endSession).ret = s.ret := rfl

@[simp] theorem align_phase : (s.align).phase = s.phase := rfl
@[simp] theorem align_eng : (s.align).eng = s.eng := rfl
@[simp] theorem align_last : (s.align).last = s.last := rfl
@[simp] theorem align_frame : (s.align).frame = s.frame := rfl
@[simp] theorem align_storedRem : (s.align).storedRem = s.storedRem := rfl
@[simp] theorem align_bc : (s.align).bc = { s.bc with pos := 8 } := rfl
@[simp] theorem align_llLen : (s.align).llLen = s.llLen := rfl
@[simp] theorem align_llN : (s.align).llN = s.llN := rfl
@[simp] theorem align_dLen : (s.align).dLen = s.dLen := rfl
@[simp] theorem align_dN : (s.align).dN = s.dN := rfl
@[simp] theorem align_pendLen : (s.align).pendLen = s.pendLen := rfl
@[simp] theorem align_pendDist : (s.align).pendDist = s.pendDist := rfl
@[simp] theorem align_win : (s.align).win = s.win := rfl
@[simp] theorem align_out : (s.align).out = s.out := rfl
@[simp] theorem align_outCount : (s.align).outCount = s.outCount := rfl
@[simp] theorem align_err : (s.align).err = s.err := rfl
@[simp] theorem align_resp : (s.align).resp = s.resp := rfl
@[simp] theorem align_cfgFrame : (s.align).cfgFrame = s.cfgFrame := rfl
@[simp] theorem align_maxDistReg : (s.align).maxDistReg = s.maxDistReg := rfl
@[simp] theorem align_trail : (s.align).trail = s.trail := rfl
@[simp] theorem align_scr : (s.align).scr = s.scr := rfl
@[simp] theorem align_src : (s.align).src = s.src := rfl
@[simp] theorem align_supply : (s.align).supply = s.supply := rfl
@[simp] theorem align_distMode : (s.align).distMode = s.distMode := rfl
@[simp] theorem align_ckParam : (s.align).ckParam = s.ckParam := rfl
@[simp] theorem align_queue : (s.align).queue = s.queue := rfl
@[simp] theorem align_busData : (s.align).busData = s.busData := rfl
@[simp] theorem align_ret : (s.align).ret = s.ret := rfl

@[simp] theorem emit_phase (b : Byte) : (s.emit b).phase = s.phase := rfl
@[simp] theorem emit_eng (b : Byte) : (s.emit b).eng = s.eng := rfl
@[simp] theorem emit_last (b : Byte) : (s.emit b).last = s.last := rfl
@[simp] theorem emit_frame (b : Byte) : (s.emit b).frame = s.frame := rfl
@[simp] theorem emit_storedRem (b : Byte) : (s.emit b).storedRem = s.storedRem := rfl
@[simp] theorem emit_bc (b : Byte) : (s.emit b).bc = s.bc := rfl
@[simp] theorem emit_llLen (b : Byte) : (s.emit b).llLen = s.llLen := rfl
@[simp] theorem emit_llN (b : Byte) : (s.emit b).llN = s.llN := rfl
@[simp] theorem emit_dLen (b : Byte) : (s.emit b).dLen = s.dLen := rfl
@[simp] theorem emit_dN (b : Byte) : (s.emit b).dN = s.dN := rfl
@[simp] theorem emit_pendLen (b : Byte) : (s.emit b).pendLen = s.pendLen := rfl
@[simp] theorem emit_pendDist (b : Byte) : (s.emit b).pendDist = s.pendDist := rfl
@[simp] theorem emit_win (b : Byte) : (s.emit b).win = s.win := rfl
@[simp] theorem emit_out (b : Byte) : (s.emit b).out = s.out ++ [b] := rfl
@[simp] theorem emit_outCount (b : Byte) : (s.emit b).outCount = s.outCount + 1 := rfl
@[simp] theorem emit_err (b : Byte) : (s.emit b).err = s.err := rfl
@[simp] theorem emit_resp (b : Byte) : (s.emit b).resp = s.resp := rfl
@[simp] theorem emit_cfgFrame (b : Byte) : (s.emit b).cfgFrame = s.cfgFrame := rfl
@[simp] theorem emit_maxDistReg (b : Byte) : (s.emit b).maxDistReg = s.maxDistReg := rfl
@[simp] theorem emit_trail (b : Byte) : (s.emit b).trail = s.trail := rfl
@[simp] theorem emit_scr (b : Byte) : (s.emit b).scr = s.scr := rfl
@[simp] theorem emit_src (b : Byte) : (s.emit b).src = s.src := rfl
@[simp] theorem emit_supply (b : Byte) : (s.emit b).supply = s.supply := rfl
@[simp] theorem emit_distMode (b : Byte) : (s.emit b).distMode = s.distMode := rfl
@[simp] theorem emit_ckParam (b : Byte) : (s.emit b).ckParam = s.ckParam := rfl
@[simp] theorem emit_queue (b : Byte) : (s.emit b).queue = s.queue := rfl
@[simp] theorem emit_busData (b : Byte) : (s.emit b).busData = s.busData := rfl
@[simp] theorem emit_ret (b : Byte) : (s.emit b).ret = s.ret := rfl

@[simp] theorem putByte_phase (b : Byte) : (s.putByte b).phase = s.phase := rfl
@[simp] theorem putByte_eng (b : Byte) : (s.putByte b).eng = s.eng := rfl
@[simp] theorem putByte_last (b : Byte) : (s.putByte b).last = s.last := rfl
@[simp] theorem putByte_frame (b : Byte) : (s.putByte b).frame = s.frame := rfl
@[simp] theorem putByte_storedRem (b : Byte) : (s.putByte b).storedRem = s.storedRem := rfl
@[simp] theorem putByte_bc (b : Byte) : (s.putByte b).bc = s.bc := rfl
@[simp] theorem putByte_llLen (b : Byte) : (s.putByte b).llLen = s.llLen := rfl
@[simp] theorem putByte_llN (b : Byte) : (s.putByte b).llN = s.llN := rfl
@[simp] theorem putByte_dLen (b : Byte) : (s.putByte b).dLen = s.dLen := rfl
@[simp] theorem putByte_dN (b : Byte) : (s.putByte b).dN = s.dN := rfl
@[simp] theorem putByte_pendLen (b : Byte) : (s.putByte b).pendLen = s.pendLen := rfl
@[simp] theorem putByte_pendDist (b : Byte) : (s.putByte b).pendDist = s.pendDist := rfl
@[simp] theorem putByte_win (b : Byte) : (s.putByte b).win = s.win.put b := rfl
@[simp] theorem putByte_out (b : Byte) : (s.putByte b).out = s.out := rfl
@[simp] theorem putByte_outCount (b : Byte) : (s.putByte b).outCount = s.outCount := rfl
@[simp] theorem putByte_err (b : Byte) : (s.putByte b).err = s.err := rfl
@[simp] theorem putByte_resp (b : Byte) : (s.putByte b).resp = s.resp := rfl
@[simp] theorem putByte_cfgFrame (b : Byte) : (s.putByte b).cfgFrame = s.cfgFrame := rfl
@[simp] theorem putByte_maxDistReg (b : Byte) : (s.putByte b).maxDistReg = s.maxDistReg := rfl
@[simp] theorem putByte_trail (b : Byte) : (s.putByte b).trail = s.trail := rfl
@[simp] theorem putByte_scr (b : Byte) : (s.putByte b).scr = s.scr := rfl
@[simp] theorem putByte_src (b : Byte) : (s.putByte b).src = s.src := rfl
@[simp] theorem putByte_supply (b : Byte) : (s.putByte b).supply = s.supply := rfl
@[simp] theorem putByte_distMode (b : Byte) : (s.putByte b).distMode = s.distMode := rfl
@[simp] theorem putByte_ckParam (b : Byte) : (s.putByte b).ckParam = s.ckParam := rfl
@[simp] theorem putByte_queue (b : Byte) : (s.putByte b).queue = s.queue := rfl
@[simp] theorem putByte_busData (b : Byte) : (s.putByte b).busData = s.busData := rfl
@[simp] theorem putByte_ret (b : Byte) : (s.putByte b).ret = s.ret := rfl

@[simp] theorem createWindow_phase (m : Nat) : (s.createWindow m).phase = s.phase := rfl
@[simp] theorem createWindow_eng (m : Nat) : (s.createWindow m).eng = s.eng := rfl
@[simp] theorem createWindow_last (m : Nat) : (s.createWindow m).last = s.last := rfl
@[simp] theorem createWindow_frame (m : Nat) : (s.createWindow m).frame = s.frame := rfl
@[simp] theorem createWindow_storedRem (m : Nat) : (s.createWindow m).storedRem = s.storedRem := rfl
@[simp] theorem createWindow_bc (m : Nat) : (s.createWindow m).bc = s.bc := rfl
@[simp] theorem createWindow_llLen (m : Nat) : (s.createWindow m).llLen = s.llLen := rfl
@[simp] theorem createWindow_llN (m : Nat) : (s.createWindow m).llN = s.llN := rfl
@[simp] theorem createWindow_dLen (m : Nat) : (s.createWindow m).dLen = s.dLen := rfl
@[simp] theorem createWindow_dN (m : Nat) : (s.createWindow m).dN = s.dN := rfl
@[simp] theorem createWindow_pendLen (m : Nat) : (s.createWindow m).pendLen = s.pendLen := rfl
@[simp] theorem createWindow_pendDist (m : Nat) : (s.createWindow m).pendDist = s.pendDist := rfl
@[simp] theorem createWindow_win (m : Nat) : (s.createWindow m).win = { s.win with acq := true, maxDist := m, wptr := 0, filled := 0 } := rfl
@[simp] theorem createWindow_out (m : Nat) : (s.createWindow m).out = s.out := rfl
@[simp] theorem createWindow_outCount (m : Nat) : (s.createWindow m).outCount = s.outCount := rfl
@[simp] theorem createWindow_err (m : Nat) : (s.createWindow m).err = s.err := rfl
@[simp] theorem createWindow_resp (m : Nat) : (s.createWindow m).resp = s.resp := rfl
@[simp] theorem createWindow_cfgFrame (m : Nat) : (s.createWindow m).cfgFrame = s.cfgFrame := rfl
@[simp] theorem createWindow_maxDistReg (m : Nat) : (s.createWindow m).maxDistReg = s.maxDistReg := rfl
@[simp] theorem createWindow_trail (m : Nat) : (s.createWindow m).trail = s.trail := rfl
@[simp] theorem createWindow_scr (m : Nat) : (s.createWindow m).scr = s.scr := rfl
@[simp] theorem createWindow_src (m : Nat) : (s.createWindow m).src = s.src := rfl
@[simp] theorem createWindow_supply (m : Nat) : (s.createWindow m).supply = s.supply := rfl
@[simp] theorem createWindow_distMode (m : Nat) : (s.createWindow m).distMode = s.distMode := rfl
@[simp] theorem createWindow_ckParam (m : Nat) : (s.createWindow m).ckParam = s.ckParam := rfl
@[simp] theorem createWindow_queue (m : Nat) : (s.createWindow m).queue = s.queue := rfl
@[simp] theorem createWindow_busData (m : Nat) : (s.createWindow m).busData = s.busData := rfl
@[simp] theorem createWindow_ret (m : Nat) : (s.createWindow m).ret = s.ret := rfl

@[simp] theorem clearWindow_phase : (s.clearWindow).phase = s.phase := rfl
@[simp] theorem clearWindow_eng : (s.clearWindow).eng = s.eng := rfl
@[simp] theorem clearWindow_last : (s.clearWindow).last = s.last := rfl
@[simp] theorem clearWindow_frame : (s.clearWindow).frame = s.frame := rfl
@[simp] theorem clearWindow_storedRem : (s.clearWindow).storedRem = s.storedRem := rfl
@[simp] theorem clearWindow_bc : (s.clearWindow).bc = s.bc := rfl
@[simp] theorem clearWindow_llLen : (s.clearWindow).llLen = s.llLen := rfl
@[simp] theorem clearWindow_llN : (s.clearWindow).llN = s.llN := rfl
@[simp] theorem clearWindow_dLen : (s.clearWindow).dLen = s.dLen := rfl
@[simp] theorem clearWindow_dN : (s.clearWindow).dN = s.dN := rfl
@[simp] theorem clearWindow_pendLen : (s.clearWindow).pendLen = s.pendLen := rfl
@[simp] theorem clearWindow_pendDist : (s.clearWindow).pendDist = s.pendDist := rfl
@[simp] theorem clearWindow_win : (s.clearWindow).win = { s.win with wptr := 0, filled := 0 } := rfl
@[simp] theorem clearWindow_out : (s.clearWindow).out = s.out := rfl
@[simp] theorem clearWindow_outCount : (s.clearWindow).outCount = s.outCount := rfl
@[simp] theorem clearWindow_err : (s.clearWindow).err = s.err := rfl
@[simp] theorem clearWindow_resp : (s.clearWindow).resp = s.resp := rfl
@[simp] theorem clearWindow_cfgFrame : (s.clearWindow).cfgFrame = s.cfgFrame := rfl
@[simp] theorem clearWindow_maxDistReg : (s.clearWindow).maxDistReg = s.maxDistReg := rfl
@[simp] theorem clearWindow_trail : (s.clearWindow).trail = s.trail := rfl
@[simp] theorem clearWindow_scr : (s.clearWindow).scr = s.scr := rfl
@[simp] theorem clearWindow_src : (s.clearWindow).src = s.src := rfl
@[simp] theorem clearWindow_supply : (s.clearWindow).supply = s.supply := rfl
@[simp] theorem clearWindow_distMode : (s.clearWindow).distMode = s.distMode := rfl
@[simp] theorem clearWindow_ckParam : (s.clearWindow).ckParam = s.ckParam := rfl
@[simp] theorem clearWindow_queue : (s.clearWindow).queue = s.queue := rfl
@[simp] theorem clearWindow_busData : (s.clearWindow).busData = s.busData := rfl
@[simp] theorem clearWindow_ret : (s.clearWindow).ret = s.ret := rfl

@[simp] theorem blockEnd_phase : (s.blockEnd).phase = s.phase := rfl
@[simp] theorem blockEnd_eng : (s.blockEnd).eng = if s.last then .lastBlockFree else .blockFree := rfl
@[simp] theorem blockEnd_last : (s.blockEnd).last = s.last := rfl
@[simp] theorem blockEnd_frame : (s.blockEnd).frame = s.frame := rfl
@[simp] theorem blockEnd_storedRem : (s.blockEnd).storedRem = s.storedRem := rfl
@[simp] theorem blockEnd_bc : (s.blockEnd).bc = s.bc := rfl
@[simp] theorem blockEnd_llLen : (s.blockEnd).llLen = s.llLen := rfl
@[simp] theorem blockEnd_llN : (s.blockEnd).llN = s.llN := rfl
@[simp] theorem blockEnd_dLen : (s.blockEnd).dLen = s.dLen := rfl
@[simp] theorem blockEnd_dN : (s.blockEnd).dN = s.dN := rfl
@[simp] theorem blockEnd_pendLen : (s.blockEnd).pendLen = s.pendLen := rfl
@[simp] theorem blockEnd_pendDist : (s.blockEnd).pendDist = s.pendDist := rfl
@[simp] theorem blockEnd_win : (s.blockEnd).win = s.win := rfl
@[simp] theorem blockEnd_out : (s.blockEnd).out = s.out := rfl
@[simp] theorem blockEnd_outCount : (s.blockEnd).outCount = s.outCount := rfl
@[simp] theorem blockEnd_err : (s.blockEnd).err = s.err := rfl
@[simp] theorem blockEnd_resp : (s.blockEnd).resp = s.resp := rfl
@[simp] theorem blockEnd_cfgFrame : (s.blockEnd).cfgFrame = s.cfgFrame := rfl
@[simp] theorem blockEnd_maxDistReg : (s.blockEnd).maxDistReg = s.maxDistReg := rfl
@[simp] theorem blockEnd_trail : (s.blockEnd).trail = s.trail := rfl
@[simp] theorem blockEnd_scr : (s.blockEnd).scr = s.scr := rfl
@[simp] theorem blockEnd_src : (s.blockEnd).src = s.src := rfl
@[simp] theorem blockEnd_supply : (s.blockEnd).supply = s.supply := rfl
@[simp] theorem blockEnd_distMode : (s.blockEnd).distMode = s.distMode := rfl
@[simp] theorem blockEnd_ckParam : (s.blockEnd).ckParam = s.ckParam := rfl
@[simp] theorem blockEnd_queue : (s.blockEnd).queue = s.queue := rfl
@[simp] theorem blockEnd_busData : (s.blockEnd).busData = s.busData := rfl
@[simp] theorem blockEnd_ret : (s.blockEnd).ret = s.ret := rfl

@[simp] theorem setLast_phase (b : Bool) : (s.setLast b).phase = s.phase := rfl
@[simp] theorem setLast_eng (b : Bool) : (s.setLast b).eng = s.eng := rfl
@[simp] theorem setLast_last (b : Bool) : (s.setLast b).last = b := rfl
@[simp] theorem setLast_frame (b : Bool) : (s.setLast b).frame = s.frame := rfl
@[simp] theorem setLast_storedRem (b : Bool) : (s.setLast b).storedRem = s.storedRem := rfl
@[simp] theorem setLast_bc (b : Bool) : (s.setLast b).bc = s.bc := rfl
@[simp] theorem setLast_llLen (b : Bool) : (s.setLast b).llLen = s.llLen := rfl
@[simp] theorem setLast_llN (b : Bool) : (s.setLast b).llN = s.llN := rfl
@[simp] theorem setLast_dLen (b : Bool) : (s.setLast b).dLen = s.dLen := rfl
@[simp] theorem setLast_dN (b : Bool) : (s.setLast b).dN = s.dN := rfl
@[simp] theorem setLast_pendLen (b : Bool) : (s.setLast b).pendLen = s.pendLen := rfl
@[simp] theorem setLast_pendDist (b : Bool) : (s.setLast b).pendDist = s.pendDist := rfl
@[simp] theorem setLast_win (b : Bool) : (s.setLast b).win = s.win := rfl
@[simp] theorem setLast_out (b : Bool) : (s.setLast b).out = s.out := rfl
@[simp] theorem setLast_outCount (b : Bool) : (s.setLast b).outCount = s.outCount := rfl
@[simp] theorem setLast_err (b : Bool) : (s.setLast b).err = s.err := rfl
@[simp] theorem setLast_resp (b : Bool) : (s.setLast b).resp = s.resp := rfl
@[simp] theorem setLast_cfgFrame (b : Bool) : (s.setLast b).cfgFrame = s.cfgFrame := rfl
@[simp] theorem setLast_maxDistReg (b : Bool) : (s.setLast b).maxDistReg = s.maxDistReg := rfl
@[simp] theorem setLast_trail (b : Bool) : (s.setLast b).trail = s.trail := rfl
@[simp] theorem setLast_scr (b : Bool) : (s.setLast b).scr = s.scr := rfl
@[simp] theorem setLast_src (b : Bool) : (s.setLast b).src = s.src := rfl
@[simp] theorem setLast_supply (b : Bool) : (s.setLast b).supply = s.supply := rfl
@[simp] theorem setLast_distMode (b : Bool) : (s.setLast b).distMode = s.distMode := rfl
@[simp] theorem setLast_ckParam (b : Bool) : (s.setLast b).ckParam = s.ckParam := rfl
@[simp] theorem setLast_queue (b : Bool) : (s.setLast b).queue = s.queue := rfl
@[simp] theorem setLast_busData (b : Bool) : (s.setLast b).busData = s.busData := rfl
@[simp] theorem setLast_ret (b : Bool) : (s.setLast b).ret = s.ret := rfl

@[simp] theorem installTables_phase (ll d : List Nat) : (s.installTables ll d).phase = s.phase := rfl
@[simp] theorem installTables_eng (ll d : List Nat) : (s.installTables ll d).eng = s.eng := rfl
@[simp] theorem installTables_last (ll d : List Nat) : (s.installTables ll d).last = s.last := rfl
@[simp] theorem installTables_frame (ll d : List Nat) : (s.installTables ll d).frame = s.frame := rfl
@[simp] theorem installTables_storedRem (ll d : List Nat) : (s.installTables ll d).storedRem = s.storedRem := rfl
@[simp] theorem installTables_bc (ll d : List Nat) : (s.installTables ll d).bc = s.bc := rfl
@[simp] theorem installTables_llLen (ll d : List Nat) : (s.installTables ll d).llLen = padTo 288 ll := rfl
@[simp] theorem installTables_llN (ll d : List Nat) : (s.installTables ll d).llN = ll.length := rfl
@[simp] theorem installTables_dLen (ll d : List Nat) : (s.installTables ll d).dLen = padTo 32 d := rfl
@[simp] theorem installTables_dN (ll d : List Nat) : (s.installTables ll d).dN = d.length := rfl
@[simp] theorem installTables_pendLen (ll d : List Nat) : (s.installTables ll d).pendLen = s.pendLen := rfl
@[simp] theorem installTables_pendDist (ll d : List Nat) : (s.installTables ll d).pendDist = s.pendDist := rfl
@[simp] theorem installTables_win (ll d : List Nat) : (s.installTables ll d).win = s.win := rfl
@[simp] theorem installTables_out (ll d : List Nat) : (s.installTables ll d).out = s.out := rfl
@[simp] theorem installTables_outCount (ll d : List Nat) : (s.installTables ll d).outCount = s.outCount := rfl
@[simp] theorem installTables_err (ll d : List Nat) : (s.installTables ll d).err = s.err := rfl
@[simp] theorem installTables_resp (ll d : List Nat) : (s.installTables ll d).resp = s.resp := rfl
@[simp] theorem installTables_cfgFrame (ll d : List Nat) : (s.installTables ll d).cfgFrame = s.cfgFrame := rfl
@[simp] theorem installTables_maxDistReg (ll d : List Nat) : (s.installTables ll d).maxDistReg = s.maxDistReg := rfl
@[simp] theorem installTables_trail (ll d : List Nat) : (s.installTables ll d).trail = s.trail := rfl
@[simp] theorem installTables_scr (ll d : List Nat) : (s.installTables ll d).scr = s.scr := rfl
@[simp] theorem installTables_src (ll d : List Nat) : (s.installTables ll d).src = s.src := rfl
@[simp] theorem installTables_supply (ll d : List Nat) : (s.installTables ll d).supply = s.supply := rfl
@[simp] theorem installTables_distMode (ll d : List Nat) : (s.installTables ll d).distMode = s.distMode := rfl
@[simp] theorem installTables_ckParam (ll d : List Nat) : (s.installTables ll d).ckParam = s.ckParam := rfl
@[simp] theorem installTables_queue (ll d : List Nat) : (s.installTables ll d).queue = s.queue := rfl
@[simp] theorem installTables_busData (ll d : List Nat) : (s.installTables ll d).busData = s.busData := rfl
@[simp] theorem installTables_ret (ll d : List Nat) : (s.installTables ll d).ret = s.ret := rfl

@[simp] theorem beginDynamic_phase (nLit nDist : Nat) : (s.beginDynamic nLit nDist).phase = s.phase := rfl
@[simp] theorem beginDynamic_eng (nLit nDist : Nat) : (s.beginDynamic nLit nDist).eng = s.eng := rfl
@[simp] theorem beginDynamic_last (nLit nDist : Nat) : (s.beginDynamic nLit nDist).last = s.last := rfl
@[simp] theorem beginDynamic_frame (nLit nDist : Nat) : (s.beginDynamic nLit nDist).frame = s.frame := rfl
@[simp] theorem beginDynamic_storedRem (nLit nDist : Nat) : (s.beginDynamic nLit nDist).storedRem = s.storedRem := rfl
@[simp] theorem beginDynamic_bc (nLit nDist : Nat) : (s.beginDynamic nLit nDist).bc = s.bc := rfl
@[simp] theorem beginDynamic_llLen (nLit nDist : Nat) : (s.beginDynamic nLit nDist).llLen = s.llLen := rfl
@[simp] theorem beginDynamic_llN (nLit nDist : Nat) : (s.beginDynamic nLit nDist).llN = s.llN := rfl
@[simp] theorem beginDynamic_dLen (nLit nDist : Nat) : (s.beginDynamic nLit nDist).dLen = s.dLen := rfl
@[simp] theorem beginDynamic_dN (nLit nDist : Nat) : (s.beginDynamic nLit nDist).dN = s.dN := rfl
@[simp] theorem beginDynamic_pendLen (nLit nDist : Nat) : (s.beginDynamic nLit nDist).pendLen = s.pendLen := rfl
@[simp] theorem beginDynamic_pendDist (nLit nDist : Nat) : (s.beginDynamic nLit nDist).pendDist = s.pendDist := rfl
@[simp] theorem beginDynamic_win (nLit nDist : Nat) : (s.beginDynamic nLit nDist).win = s.win := rfl
@[simp] theorem beginDynamic_out (nLit nDist : Nat) : (s.beginDynamic nLit nDist).out = s.out := rfl
@[simp] theorem beginDynamic_outCount (nLit nDist : Nat) : (s.beginDynamic nLit nDist).outCount = s.outCount := rfl
@[simp] theorem beginDynamic_err (nLit nDist : Nat) : (s.beginDynamic nLit nDist).err = s.err := rfl
@[simp] theorem beginDynamic_resp (nLit nDist : Nat) : (s.beginDynamic nLit nDist).resp = s.resp := rfl
@[simp] theorem beginDynamic_cfgFrame (nLit nDist : Nat) : (s.beginDynamic nLit nDist).cfgFrame = s.cfgFrame := rfl
@[simp] theorem beginDynamic_maxDistReg (nLit nDist : Nat) : (s.beginDynamic nLit nDist).maxDistReg = s.maxDistReg := rfl
@[simp] theorem beginDynamic_trail (nLit nDist : Nat) : (s.beginDynamic nLit nDist).trail = s.trail := rfl
@[simp] theorem beginDynamic_scr (nLit nDist : Nat) : (s.beginDynamic nLit nDist).scr = { s.scr with nLit := nLit, nDist := nDist, clLen := List.replicate Config.clSymbols 0, seq := [] } := rfl
@[simp] theorem beginDynamic_src (nLit nDist : Nat) : (s.beginDynamic nLit nDist).src = s.src := rfl
@[simp] theorem beginDynamic_supply (nLit nDist : Nat) : (s.beginDynamic nLit nDist).supply = s.supply := rfl
@[simp] theorem beginDynamic_distMode (nLit nDist : Nat) : (s.beginDynamic nLit nDist).distMode = s.distMode := rfl
@[simp] theorem beginDynamic_ckParam (nLit nDist : Nat) : (s.beginDynamic nLit nDist).ckParam = s.ckParam := rfl
@[simp] theorem beginDynamic_queue (nLit nDist : Nat) : (s.beginDynamic nLit nDist).queue = s.queue := rfl
@[simp] theorem beginDynamic_busData (nLit nDist : Nat) : (s.beginDynamic nLit nDist).busData = s.busData := rfl
@[simp] theorem beginDynamic_ret (nLit nDist : Nat) : (s.beginDynamic nLit nDist).ret = s.ret := rfl

@[simp] theorem enterTrailer_phase : (s.enterTrailer).phase = .trailer := rfl
@[simp] theorem enterTrailer_eng : (s.enterTrailer).eng = .trailingBytes := rfl
@[simp] theorem enterTrailer_last : (s.enterTrailer).last = s.last := rfl
@[simp] theorem enterTrailer_frame : (s.enterTrailer).frame = s.frame := rfl
@[simp] theorem enterTrailer_storedRem : (s.enterTrailer).storedRem = s.storedRem := rfl
@[simp] theorem enterTrailer_bc : (s.enterTrailer).bc = { s.bc with pos := 8 } := rfl
@[simp] theorem enterTrailer_llLen : (s.enterTrailer).llLen = s.llLen := rfl
@[simp] theorem enterTrailer_llN : (s.enterTrailer).llN = s.llN := rfl
@[simp] theorem enterTrailer_dLen : (s.enterTrailer).dLen = s.dLen := rfl
@[simp] theorem enterTrailer_dN : (s.enterTrailer).dN = s.dN := rfl
@[simp] theorem enterTrailer_pendLen : (s.enterTrailer).pendLen = s.pendLen := rfl
@[simp] theorem enterTrailer_pendDist : (s.enterTrailer).pendDist = s.pendDist := rfl
@[simp] theorem enterTrailer_win : (s.enterTrailer).win = s.win := rfl
@[simp] theorem enterTrailer_out : (s.enterTrailer).out = s.out := rfl
@[simp] theorem enterTrailer_outCount : (s.enterTrailer).outCount = s.outCount := rfl
@[simp] theorem enterTrailer_err : (s.enterTrailer).err = s.err := rfl
@[simp] theorem enterTrailer_resp : (s.enterTrailer).resp = s.resp := rfl
@[simp] theorem enterTrailer_cfgFrame : (s.enterTrailer).cfgFrame = s.cfgFrame := rfl
@[simp] theorem enterTrailer_maxDistReg : (s.enterTrailer).maxDistReg = s.maxDistReg := rfl
@[simp] theorem enterTrailer_trail : (s.enterTrailer).trail = s.trail := rfl
@[simp] theorem enterTrailer_scr : (s.enterTrailer).scr = s.scr := rfl
@[simp] theorem enterTrailer_src : (s.enterTrailer).src = s.src := rfl
@[simp] theorem enterTrailer_supply : (s.enterTrailer).supply = s.supply := rfl
@[simp] theorem enterTrailer_distMode : (s.enterTrailer).distMode = s.distMode := rfl
@[simp] theorem enterTrailer_ckParam : (s.enterTrailer).ckParam = s.ckParam := rfl
@[simp] theorem enterTrailer_queue : (s.enterTrailer).queue = s.queue := rfl
@[simp] theorem enterTrailer_busData : (s.enterTrailer).busData = s.busData := rfl
@[simp] theorem enterTrailer_ret : (s.enterTrailer).ret = s.ret := rfl

@[simp] theorem openSession_phase : (s.openSession).phase = if s.cfgFrame = .raw then .body else .header := rfl
@[simp] theorem openSession_eng : (s.openSession).eng = .blockFree := rfl
@[simp] theorem openSession_last : (s.openSession).last = false := rfl
@[simp] theorem openSession_frame : (s.openSession).frame = s.cfgFrame := rfl
@[simp] theorem openSession_storedRem : (s.openSession).storedRem = 0 := rfl
@[simp] theorem openSession_bc : (s.openSession).bc = BitCursor.reset := rfl
@[simp] theorem openSession_llLen : (s.openSession).llLen = List.replicate 288 0 := rfl
@[simp] theorem openSession_llN : (s.openSession).llN = 0 := rfl
@[simp] theorem openSession_dLen : (s.openSession).dLen = List.replicate 32 0 := rfl
@[simp] theorem openSession_dN : (s.openSession).dN = 0 := rfl
@[simp] theorem openSession_pendLen : (s.openSession).pendLen = 0 := rfl
@[simp] theorem openSession_pendDist : (s.openSession).pendDist = 0 := rfl
@[simp] theorem openSession_win : (s.openSession).win = { s.win with acq := true, maxDist := startWindow s, wptr := 0, filled := 0 } := rfl
@[simp] theorem openSession_out : (s.openSession).out = [] := rfl
@[simp] theorem openSession_outCount : (s.openSession).outCount = 0 := rfl
@[simp] theorem openSession_err : (s.openSession).err = none := rfl
@[simp] theorem openSession_resp : (s.openSession).resp = s.resp := rfl
@[simp] theorem openSession_cfgFrame : (s.openSession).cfgFrame = s.cfgFrame := rfl
@[simp] theorem openSession_maxDistReg : (s.openSession).maxDistReg = s.maxDistReg := rfl
@[simp] theorem openSession_trail : (s.openSession).trail = 0 := rfl
@[simp] theorem openSession_scr : (s.openSession).scr = s.scr := rfl
@[simp] theorem openSession_src : (s.openSession).src = s.supply := rfl
@[simp] theorem openSession_supply : (s.openSession).supply = s.supply := rfl
@[simp] theorem openSession_distMode : (s.openSession).distMode = s.distMode := rfl
@[simp] theorem openSession_ckParam : (s.openSession).ckParam = s.ckParam := rfl
@[simp] theorem openSession_queue : (s.openSession).queue = s.queue := rfl
@[simp] theorem openSession_busData : (s.openSession).busData = s.busData := rfl
@[simp] theorem openSession_ret : (s.openSession).ret = s.ret := rfl

@[simp] theorem enterTrailingBits_phase : (s.enterTrailingBits).phase = s.phase := rfl
@[simp] theorem enterTrailingBits_eng : (s.enterTrailingBits).eng = .trailingBits := rfl
@[simp] theorem enterTrailingBits_last : (s.enterTrailingBits).last = s.last := rfl
@[simp] theorem enterTrailingBits_frame : (s.enterTrailingBits).frame = s.frame := rfl
@[simp] theorem enterTrailingBits_storedRem : (s.enterTrailingBits).storedRem = s.storedRem := rfl
@[simp] theorem enterTrailingBits_bc : (s.enterTrailingBits).bc = s.bc := rfl
@[simp] theorem enterTrailingBits_llLen : (s.enterTrailingBits).llLen = s.llLen := rfl
@[simp] theorem enterTrailingBits_llN : (s.enterTrailingBits).llN = s.llN := rfl
@[simp] theorem enterTrailingBits_dLen : (s.enterTrailingBits).dLen = s.dLen := rfl
@[simp] theorem enterTrailingBits_dN : (s.enterTrailingBits).dN = s.dN := rfl
@[simp] theorem enterTrailingBits_pendLen : (s.enterTrailingBits).pendLen = s.pendLen := rfl
@[simp] theorem enterTrailingBits_pendDist : (s.enterTrailingBits).pendDist = s.pendDist := rfl
@[simp] theorem enterTrailingBits_win : (s.enterTrailingBits).win = s.win := rfl
@[simp] theorem enterTrailingBits_out : (s.enterTrailingBits).out = s.out := rfl
@[simp] theorem enterTrailingBits_outCount : (s.enterTrailingBits).outCount = s.outCount := rfl
@[simp] theorem enterTrailingBits_err : (s.enterTrailingBits).err = s.err := rfl
@[simp] theorem enterTrailingBits_resp : (s.enterTrailingBits).resp = s.resp := rfl
@[simp] theorem enterTrailingBits_cfgFrame : (s.enterTrailingBits).cfgFrame = s.cfgFrame := rfl
@[simp] theorem enterTrailingBits_maxDistReg : (s.enterTrailingBits).maxDistReg = s.maxDistReg := rfl
@[simp] theorem enterTrailingBits_trail : (s.enterTrailingBits).trail = s.trail := rfl
@[simp] theorem enterTrailingBits_scr : (s.enterTrailingBits).scr = s.scr := rfl
@[simp] theorem enterTrailingBits_src : (s.enterTrailingBits).src = s.src := rfl
@[simp] theorem enterTrailingBits_supply : (s.enterTrailingBits).supply = s.supply := rfl
@[simp] theorem enterTrailingBits_distMode : (s.enterTrailingBits).distMode = s.distMode := rfl
@[simp] theorem enterTrailingBits_ckParam : (s.enterTrailingBits).ckParam = s.ckParam := rfl
@[simp] theorem enterTrailingBits_queue : (s.enterTrailingBits).queue = s.queue := rfl
@[simp] theorem enterTrailingBits_busData : (s.enterTrailingBits).busData = s.busData := rfl
@[simp] theorem enterTrailingBits_ret : (s.enterTrailingBits).ret = s.ret := rfl

@[simp] theorem enterTrailingBytes_phase : (s.enterTrailingBytes).phase = s.phase := rfl
@[simp] theorem enterTrailingBytes_eng : (s.enterTrailingBytes).eng = .trailingBytes := rfl
@[simp] theorem enterTrailingBytes_last : (s.enterTrailingBytes).last = s.last := rfl
@[simp] theorem enterTrailingBytes_frame : (s.enterTrailingBytes).frame = s.frame := rfl
@[simp] theorem enterTrailingBytes_storedRem : (s.enterTrailingBytes).storedRem = s.storedRem := rfl
@[simp] theorem enterTrailingBytes_bc : (s.enterTrailingBytes).bc = { s.bc with pos := 8 } := rfl
@[simp] theorem enterTrailingBytes_llLen : (s.enterTrailingBytes).llLen = s.llLen := rfl
@[simp] theorem enterTrailingBytes_llN : (s.enterTrailingBytes).llN = s.llN := rfl
@[simp] theorem enterTrailingBytes_dLen : (s.enterTrailingBytes).dLen = s.dLen := rfl
@[simp] theorem enterTrailingBytes_dN : (s.enterTrailingBytes).dN = s.dN := rfl
@[simp] theorem enterTrailingBytes_pendLen : (s.enterTrailingBytes).pendLen = s.pendLen := rfl
@[simp] theorem enterTrailingBytes_pendDist : (s.enterTrailingBytes).pendDist = s.pendDist := rfl
@[simp] theorem enterTrailingBytes_win : (s.enterTrailingBytes).win = s.win := rfl
@[simp] theorem enterTrailingBytes_out : (s.enterTrailingBytes).out = s.out := rfl
@[simp] theorem enterTrailingBytes_outCount : (s.enterTrailingBytes).outCount = s.outCount := rfl
@[simp] theorem enterTrailingBytes_err : (s.enterTrailingBytes).err = s.err := rfl
@[simp] theorem enterTrailingBytes_resp : (s.enterTrailingBytes).resp = s.resp := rfl
@[simp] theorem enterTrailingBytes_cfgFrame : (s.enterTrailingBytes).cfgFrame = s.cfgFrame := rfl
@[simp] theorem enterTrailingBytes_maxDistReg : (s.enterTrailingBytes).maxDistReg = s.maxDistReg := rfl
@[simp] theorem enterTrailingBytes_trail : (s.enterTrailingBytes).trail = s.trail := rfl
@[simp] theorem enterTrailingBytes_scr : (s.enterTrailingBytes).scr = s.scr := rfl
@[simp] theorem enterTrailingBytes_src : (s.enterTrailingBytes).src = s.src := rfl
@[simp] theorem enterTrailingBytes_supply : (s.enterTrailingBytes).supply = s.supply := rfl
@[simp] theorem enterTrailingBytes_distMode : (s.enterTrailingBytes).distMode = s.distMode := rfl
@[simp] theorem enterTrailingBytes_ckParam : (s.enterTrailingBytes).ckParam = s.ckParam := rfl
@[simp] theorem enterTrailingBytes_queue : (s.enterTrailingBytes).queue = s.queue := rfl
@[simp] theorem enterTrailingBytes_busData : (s.enterTrailingBytes).busData = s.busData := rfl
@[simp] theorem enterTrailingBytes_ret : (s.enterTrailingBytes).ret = s.ret := rfl

@[simp] theorem setRet_phase (r : Ret) : (s.setRet r).phase = s.phase := rfl
@[simp] theorem setRet_eng (r : Ret) : (s.setRet r).eng = s.eng := rfl
@[simp] theorem setRet_last (r : Ret) : (s.setRet r).last = s.last := rfl
@[simp] theorem setRet_frame (r : Ret) : (s.setRet r).frame = s.frame := rfl
@[simp] theorem setRet_storedRem (r : Ret) : (s.setRet r).storedRem = s.storedRem := rfl
@[simp] theorem setRet_bc (r : Ret) : (s.setRet r).bc = s.bc := rfl
@[simp] theorem setRet_llLen (r : Ret) : (s.setRet r).llLen = s.llLen := rfl
@[simp] theorem setRet_llN (r : Ret) : (s.setRet r).llN = s.llN := rfl
@[simp] theorem setRet_dLen (r : Ret) : (s.setRet r).dLen = s.dLen := rfl
@[simp] theorem setRet_dN (r : Ret) : (s.setRet r).dN = s.dN := rfl
@[simp] theorem setRet_pendLen (r : Ret) : (s.setRet r).pendLen = s.pendLen := rfl
@[simp] theorem setRet_pendDist (r : Ret) : (s.setRet r).pendDist = s.pendDist := rfl
@[simp] theorem setRet_win (r : Ret) : (s.setRet r).win = s.win := rfl
@[simp] theorem setRet_out (r : Ret) : (s.setRet r).out = s.out := rfl
@[simp] theorem setRet_outCount (r : Ret) : (s.setRet r).outCount = s.outCount := rfl
@[simp] theorem setRet_err (r : Ret) : (s.setRet r).err = s.err := rfl
@[simp] theorem setRet_resp (r : Ret) : (s.setRet r).resp = s.resp := rfl
@[simp] theorem setRet_cfgFrame (r : Ret) : (s.setRet r).cfgFrame = s.cfgFrame := rfl
@[simp] theorem setRet_maxDistReg (r : Ret) : (s.setRet r).maxDistReg = s.maxDistReg := rfl
@[simp] theorem setRet_trail (r : Ret) : (s.setRet r).trail = s.trail := rfl
@[simp] theorem setRet_scr (r : Ret) : (s.setRet r).scr = s.scr := rfl
@[simp] theorem setRet_src (r : Ret) : (s.setRet r).src = s.src := rfl
@[simp] theorem setRet_supply (r : Ret) : (s.setRet r).supply = s.supply := rfl
@[simp] theorem setRet_distMode (r : Ret) : (s.setRet r).distMode = s.distMode := rfl
@[simp] theorem setRet_ckParam (r : Ret) : (s.setRet r).ckParam = s.ckParam := rfl
@[simp] theorem setRet_queue (r : Ret) : (s.setRet r).queue = s.queue := rfl
@[simp] theorem setRet_busData (r : Ret) : (s.setRet r).busData = s.busData := rfl
@[simp] theorem setRet_ret (r : Ret) : (s.setRet r).ret = r := rfl

@[simp] theorem lowerCap_phase (m : Nat) : (s.lowerCap m).phase = s.phase := rfl
@[simp] theorem lowerCap_eng (m : Nat) : (s.lowerCap m).eng = s.eng := rfl
@[simp] theorem lowerCap_last (m : Nat) : (s.lowerCap m).last = s.last := rfl
@[simp] theorem lowerCap_frame (m : Nat) : (s.lowerCap m).frame = s.frame := rfl
@[simp] theorem lowerCap_storedRem (m : Nat) : (s.lowerCap m).storedRem = s.storedRem := rfl
@[simp] theorem lowerCap_bc (m : Nat) : (s.lowerCap m).bc = s.bc := rfl
@[simp] theorem lowerCap_llLen (m : Nat) : (s.lowerCap m).llLen = s.llLen := rfl
@[simp] theorem lowerCap_llN (m : Nat) : (s.lowerCap m).llN = s.llN := rfl
@[simp] theorem lowerCap_dLen (m : Nat) : (s.lowerCap m).dLen = s.dLen := rfl
@[simp] theorem lowerCap_dN (m : Nat) : (s.lowerCap m).dN = s.dN := rfl
@[simp] theorem lowerCap_pendLen (m : Nat) : (s.lowerCap m).pendLen = s.pendLen := rfl
@[simp] theorem lowerCap_pendDist (m : Nat) : (s.lowerCap m).pendDist = s.pendDist := rfl
@[simp] theorem lowerCap_win (m : Nat) : (s.lowerCap m).win = { s.win with maxDist := m } := rfl
@[simp] theorem lowerCap_out (m : Nat) : (s.lowerCap m).out = s.out := rfl
@[simp] theorem lowerCap_outCount (m : Nat) : (s.lowerCap m).outCount = s.outCount := rfl
@[simp] theorem lowerCap_err (m : Nat) : (s.lowerCap m).err = s.err := rfl
@[simp] theorem lowerCap_resp (m : Nat) : (s.lowerCap m).resp = s.resp := rfl
@[simp] theorem lowerCap_cfgFrame (m : Nat) : (s.lowerCap m).cfgFrame = s.cfgFrame := rfl
@[simp] theorem lowerCap_maxDistReg (m : Nat) : (s.lowerCap m).maxDistReg = s.maxDistReg := rfl
@[simp] theorem lowerCap_trail (m : Nat) : (s.lowerCap m).trail = s.trail := rfl
@[simp] theorem lowerCap_scr (m : Nat) : (s.lowerCap m).scr = s.scr := rfl
@[simp] theorem lowerCap_src (m : Nat) : (s.lowerCap m).src = s.src := rfl
@[simp] theorem lowerCap_supply (m : Nat) : (s.lowerCap m).supply = s.supply := rfl
@[simp] theorem lowerCap_distMode (m : Nat) : (s.lowerCap m).distMode = s.distMode := rfl
@[simp] theorem lowerCap_ckParam (m : Nat) : (s.lowerCap m).ckParam = s.ckParam := rfl
@[simp] theorem lowerCap_queue (m : Nat) : (s.lowerCap m).queue = s.queue := rfl
@[simp] theorem lowerCap_busData (m : Nat) : (s.lowerCap m).busData = s.busData := rfl
@[simp] theorem lowerCap_ret (m : Nat) : (s.lowerCap m).ret = s.ret := rfl

@[simp] theorem withQueue_phase (q : List Request) : (s.withQueue q).phase = s.phase := rfl
@[simp] theorem withQueue_eng (q : List Request) : (s.withQueue q).eng = s.eng := rfl
@[simp] theorem withQueue_last (q : List Request) : (s.withQueue q).last = s.last := rfl
@[simp] theorem withQueue_frame (q : List Request) : (s.withQueue q).frame = s.frame := rfl
@[simp] theorem withQueue_storedRem (q : List Request) : (s.withQueue q).storedRem = s.storedRem := rfl
@[simp] theorem withQueue_bc (q : List Request) : (s.withQueue q).bc = s.bc := rfl
@[simp] theorem withQueue_llLen (q : List Request) : (s.withQueue q).llLen = s.llLen := rfl
@[simp] theorem withQueue_llN (q : List Request) : (s.withQueue q).llN = s.llN := rfl
@[simp] theorem withQueue_dLen (q : List Request) : (s.withQueue q).dLen = s.dLen := rfl
@[simp] theorem withQueue_dN (q : List Request) : (s.withQueue q).dN = s.dN := rfl
@[simp] theorem withQueue_pendLen (q : List Request) : (s.withQueue q).pendLen = s.pendLen := rfl
@[simp] theorem withQueue_pendDist (q : List Request) : (s.withQueue q).pendDist = s.pendDist := rfl
@[simp] theorem withQueue_win (q : List Request) : (s.withQueue q).win = s.win := rfl
@[simp] theorem withQueue_out (q : List Request) : (s.withQueue q).out = s.out := rfl
@[simp] theorem withQueue_outCount (q : List Request) : (s.withQueue q).outCount = s.outCount := rfl
@[simp] theorem withQueue_err (q : List Request) : (s.withQueue q).err = s.err := rfl
@[simp] theorem withQueue_resp (q : List Request) : (s.withQueue q).resp = s.resp := rfl
@[simp] theorem withQueue_cfgFrame (q : List Request) : (s.withQueue q).cfgFrame = s.cfgFrame := rfl
@[simp] theorem withQueue_maxDistReg (q : List Request) : (s.withQueue q).maxDistReg = s.maxDistReg := rfl
@[simp] theorem withQueue_trail (q : List Request) : (s.withQueue q).trail = s.trail := rfl
@[simp] theorem withQueue_scr (q : List Request) : (s.withQueue q).scr = s.scr := rfl
@[simp] theorem withQueue_src (q : List Request) : (s.withQueue q).src = s.src := rfl
@[simp] theorem withQueue_supply (q : List Request) : (s.withQueue q).supply = s.supply := rfl
@[simp] theorem withQueue_distMode (q : List Request) : (s.withQueue q).distMode = s.distMode := rfl
@[simp] theorem withQueue_ckParam (q : List Request) : (s.withQueue q).ckParam = s.ckParam := rfl
@[simp] theorem withQueue_queue (q : List Request) : (s.withQueue q).queue = q := rfl
@[simp] theorem withQueue_busData (q : List Request) : (s.withQueue q).busData = s.busData := rfl
@[simp] theorem withQueue_ret (q : List Request) : (s.withQueue q).ret = s.ret := rfl

@[simp] theorem serveRead_phase (off : Nat) : (s.serveRead off).phase = s.phase := rfl
@[simp] theorem serveRead_eng (off : Nat) : (s.serveRead off).eng = s.eng := rfl
@[simp] theorem serveRead_last (off : Nat) : (s.serveRead off).last = s.last := rfl
@[simp] theorem serveRead_frame (off : Nat) : (s.serveRead off).frame = s.frame := rfl
@[simp] theorem serveRead_storedRem (off : Nat) : (s.serveRead off).storedRem = s.storedRem := rfl
@[simp] theorem serveRead_bc (off : Nat) : (s.serveRead off).bc = s.bc := rfl
@[simp] theorem serveRead_llLen (off : Nat) : (s.serveRead off).llLen = s.llLen := rfl
@[simp] theorem serveRead_llN (off : Nat) : (s.serveRead off).llN = s.llN := rfl
@[simp] theorem serveRead_dLen (off : Nat) : (s.serveRead off).dLen = s.dLen := rfl
@[simp] theorem serveRead_dN (off : Nat) : (s.serveRead off).dN = s.dN := rfl
@[simp] theorem serveRead_pendLen (off : Nat) : (s.serveRead off).pendLen = s.pendLen := rfl
@[simp] theorem serveRead_pendDist (off : Nat) : (s.serveRead off).pendDist = s.pendDist := rfl
@[simp] theorem serveRead_win (off : Nat) : (s.serveRead off).win = s.win := rfl
@[simp] theorem serveRead_out (off : Nat) : (s.serveRead off).out = s.out := rfl
@[simp] theorem serveRead_outCount (off : Nat) : (s.serveRead off).outCount = s.outCount := rfl
@[simp] theorem serveRead_err (off : Nat) : (s.serveRead off).err = s.err := rfl
@[simp] theorem serveRead_resp (off : Nat) : (s.serveRead off).resp = s.resp := rfl
@[simp] theorem serveRead_cfgFrame (off : Nat) : (s.serveRead off).cfgFrame = s.cfgFrame := rfl
@[simp] theorem serveRead_maxDistReg (off : Nat) : (s.serveRead off).maxDistReg = s.maxDistReg := rfl
@[simp] theorem serveRead_trail (off : Nat) : (s.serveRead off).trail = s.trail := rfl
@[simp] theorem serveRead_scr (off : Nat) : (s.serveRead off).scr = s.scr := rfl
@[simp] theorem serveRead_src (off : Nat) : (s.serveRead off).src = s.src := rfl
@[simp] theorem serveRead_supply (off : Nat) : (s.serveRead off).supply = s.supply := rfl
@[simp] theorem serveRead_distMode (off : Nat) : (s.serveRead off).distMode = s.distMode := rfl
@[simp] theorem serveRead_ckParam (off : Nat) : (s.serveRead off).ckParam = s.ckParam := rfl
@[simp] theorem serveRead_queue (off : Nat) : (s.serveRead off).queue = s.queue := rfl
@[simp] theorem serveRead_busData (off : Nat) : (s.serveRead off).busData = readReg off s := rfl
@[simp] theorem serveRead_ret (off : Nat) : (s.serveRead off).ret = s.ret := rfl

@[simp] theorem supplySource_phase (bs : List Byte) : (s.supplySource bs).phase = s.phase := rfl
@[simp] theorem supplySource_eng (bs : List Byte) : (s.supplySource bs).eng = s.eng := rfl
@[simp] theorem supplySource_last (bs : List Byte) : (s.supplySource bs).last = s.last := rfl
@[simp] theorem supplySource_frame (bs : List Byte) : (s.supplySource bs).frame = s.frame := rfl
@[simp] theorem supplySource_storedRem (bs : List Byte) : (s.supplySource bs).storedRem = s.storedRem := rfl
@[simp] theorem supplySource_bc (bs : List Byte) : (s.supplySource bs).bc = s.bc := rfl
@[simp] theorem supplySource_llLen (bs : List Byte) : (s.supplySource bs).llLen = s.llLen := rfl
@[simp] theorem supplySource_llN (bs : List Byte) : (s.supplySource bs).llN = s.llN := rfl
@[simp] theorem supplySource_dLen (bs : List Byte) : (s.supplySource bs).dLen = s.dLen := rfl
@[simp] theorem supplySource_dN (bs : List Byte) : (s.supplySource bs).dN = s.dN := rfl
@[simp] theorem supplySource_pendLen (bs : List Byte) : (s.supplySource bs).pendLen = s.pendLen := rfl
@[simp] theorem supplySource_pendDist (bs : List Byte) : (s.supplySource bs).pendDist = s.pendDist := rfl
@[simp] theorem supplySource_win (bs : List Byte) : (s.supplySource bs).win = s.win := rfl
@[simp] theorem supplySource_out (bs : List Byte) : (s.supplySource bs).out = s.out := rfl
@[simp] theorem supplySource_outCount (bs : List Byte) : (s.supplySource bs).outCount = s.outCount := rfl
@[simp] theorem supplySource_err (bs : List Byte) : (s.supplySource bs).err = s.err := rfl
@[simp] theorem supplySource_resp (bs : List Byte) : (s.supplySource bs).resp = s.resp := rfl
@[simp] theorem supplySource_cfgFrame (bs : List Byte) : (s.supplySource bs).cfgFrame = s.cfgFrame := rfl
@[simp] theorem supplySource_maxDistReg (bs : List Byte) : (s.supplySource bs).maxDistReg = s.maxDistReg := rfl
@[simp] theorem supplySource_trail (bs : List Byte) : (s.supplySource bs).trail = s.trail := rfl
@[simp] theorem supplySource_scr (bs : List Byte) : (s.supplySource bs).scr = s.scr := rfl
@[simp] theorem supplySource_src (bs : List Byte) : (s.supplySource bs).src = s.src := rfl
@[simp] theorem supplySource_supply (bs : List Byte) : (s.supplySource bs).supply = bs := rfl
@[simp] theorem supplySource_distMode (bs : List Byte) : (s.supplySource bs).distMode = s.distMode := rfl
@[simp] theorem supplySource_ckParam (bs : List Byte) : (s.supplySource bs).ckParam = s.ckParam := rfl
@[simp] theorem supplySource_queue (bs : List Byte) : (s.supplySource bs).queue = s.queue := rfl
@[simp] theorem supplySource_busData (bs : List Byte) : (s.supplySource bs).busData = s.busData := rfl
@[simp] theorem supplySource_ret (bs : List Byte) : (s.supplySource bs).ret = s.ret := rfl

@[simp] theorem resetBlock_phase : s.resetBlock.phase = State.reset.phase := rfl
@[simp] theorem resetBlock_eng : s.resetBlock.eng = State.reset.eng := rfl
@[simp] theorem resetBlock_last : s.resetBlock.last = State.reset.last := rfl
@[simp] theorem resetBlock_frame : s.resetBlock.frame = State.reset.frame := rfl
@[simp] theorem resetBlock_storedRem : s.resetBlock.storedRem = State.reset.storedRem := rfl
@[simp] theorem resetBlock_bc : s.resetBlock.bc = State.reset.bc := rfl
@[simp] theorem resetBlock_llLen : s.resetBlock.llLen = State.reset.llLen := rfl
@[simp] theorem resetBlock_llN : s.resetBlock.llN = State.reset.llN := rfl
@[simp] theorem resetBlock_dLen : s.resetBlock.dLen = State.reset.dLen := rfl
@[simp] theorem resetBlock_dN : s.resetBlock.dN = State.reset.dN := rfl
@[simp] theorem resetBlock_pendLen : s.resetBlock.pendLen = State.reset.pendLen := rfl
@[simp] theorem resetBlock_pendDist : s.resetBlock.pendDist = State.reset.pendDist := rfl
@[simp] theorem resetBlock_win : s.resetBlock.win = State.reset.win := rfl
@[simp] theorem resetBlock_out : s.resetBlock.out = State.reset.out := rfl
@[simp] theorem resetBlock_outCount : s.resetBlock.outCount = State.reset.outCount := rfl
@[simp] theorem resetBlock_err : s.resetBlock.err = State.reset.err := rfl
@[simp] theorem resetBlock_resp : s.resetBlock.resp = State.reset.resp := rfl
@[simp] theorem resetBlock_cfgFrame : s.resetBlock.cfgFrame = State.reset.cfgFrame := rfl
@[simp] theorem resetBlock_maxDistReg : s.resetBlock.maxDistReg = State.reset.maxDistReg := rfl
@[simp] theorem resetBlock_trail : s.resetBlock.trail = State.reset.trail := rfl
@[simp] theorem resetBlock_scr : s.resetBlock.scr = State.reset.scr := rfl
@[simp] theorem resetBlock_src : s.resetBlock.src = State.reset.src := rfl
@[simp] theorem resetBlock_supply : s.resetBlock.supply = s.supply := rfl
@[simp] theorem resetBlock_distMode : s.resetBlock.distMode = s.distMode := rfl
@[simp] theorem resetBlock_ckParam : s.resetBlock.ckParam = s.ckParam := rfl
@[simp] theorem resetBlock_queue : s.resetBlock.queue = s.queue := rfl
@[simp] theorem resetBlock_busData : s.resetBlock.busData = s.busData := rfl
@[simp] theorem resetBlock_ret : s.resetBlock.ret = State.reset.ret := rfl

@[simp] theorem reset_phase : State.reset.phase = .idle := rfl
@[simp] theorem reset_eng : State.reset.eng = .blockFree := rfl
@[simp] theorem reset_last : State.reset.last = false := rfl
@[simp] theorem reset_frame : State.reset.frame = .raw := rfl
@[simp] theorem reset_storedRem : State.reset.storedRem = 0 := rfl
@[simp] theorem reset_bc : State.reset.bc = BitCursor.reset := rfl
@[simp] theorem reset_llLen : State.reset.llLen = List.replicate 288 0 := rfl
@[simp] theorem reset_llN : State.reset.llN = 0 := rfl
@[simp] theorem reset_dLen : State.reset.dLen = List.replicate 32 0 := rfl
@[simp] theorem reset_dN : State.reset.dN = 0 := rfl
@[simp] theorem reset_pendLen : State.reset.pendLen = 0 := rfl
@[simp] theorem reset_pendDist : State.reset.pendDist = 0 := rfl
@[simp] theorem reset_win : State.reset.win = Window.reset := rfl
@[simp] theorem reset_out : State.reset.out = [] := rfl
@[simp] theorem reset_outCount : State.reset.outCount = 0 := rfl
@[simp] theorem reset_err : State.reset.err = none := rfl
@[simp] theorem reset_resp : State.reset.resp = .none := rfl
@[simp] theorem reset_cfgFrame : State.reset.cfgFrame = .raw := rfl
@[simp] theorem reset_maxDistReg : State.reset.maxDistReg = 0x8000 := rfl
@[simp] theorem reset_trail : State.reset.trail = 0 := rfl
@[simp] theorem reset_scr : State.reset.scr = Scratch.reset := rfl
@[simp] theorem reset_src : State.reset.src = [] := rfl
@[simp] theorem reset_supply : State.reset.supply = [] := rfl
@[simp] theorem reset_distMode : State.reset.distMode = .reject := rfl
@[simp] theorem reset_ckParam : State.reset.ckParam = .standard := rfl
@[simp] theorem reset_queue : State.reset.queue = [] := rfl
@[simp] theorem reset_busData : State.reset.busData = 0 := rfl
@[simp] theorem reset_ret : State.reset.ret = .none := rfl

end Sys2Proof.Machine
end

