-- ==== Sys2Proof/Laws/Results.lean ====
section
/-! SUPPORT. Results of operations: `bind`, `finish`, and what an operation leaves (`Res.Sat`), with the rule for `bind` that every later proof uses. -/

namespace Sys2Proof.Machine

open Sys2Proof

variable {α β γ : Type}

@[simp] theorem bind_ok (a : α) (s : State) (k : α → State → Res β) : (Res.ok a s).bind k = k a s := rfl
@[simp] theorem bind_raised (e : StreamError) (s : State) (k : α → State → Res β) : (Res.raised e s).bind k = .raised e s := rfl
@[simp] theorem bind_fault (f : Fault) (k : α → State → Res β) : (Res.fault f : Res α).bind k = .fault f := rfl
@[simp] theorem bind_refused (r : Refusal) (k : α → State → Res β) : (Res.refused r : Res α).bind k = .refused r := rfl

theorem bind_assoc (r : Res α) (k : α → State → Res β) (l : β → State → Res γ) :
    (r.bind k).bind l = r.bind fun a s => (k a s).bind l := by
  cases r <;> rfl

@[simp] theorem finish_ok (a : Unit) (s : State) : (Res.ok a s).finish = .next s := rfl
@[simp] theorem finish_raised (e : StreamError) (s : State) : (Res.raised e s : Res Unit).finish = .next (s.latch e) := rfl
@[simp] theorem finish_fault (f : Fault) : (Res.fault f : Res Unit).finish = .fault f := rfl
@[simp] theorem finish_refused (r : Refusal) : (Res.refused r : Res Unit).finish = .refused r := rfl

/-- A step that ends in a next state ended well, or latched an error. -/
theorem finish_next {r : Res Unit} {t : State} (h : r.finish = .next t) :
    r = .ok () t ∨ ∃ e s, r = .raised e s ∧ t = s.latch e := by
  cases r with
  | ok a s => exact .inl (by cases h; rfl)
  | raised e s => exact .inr ⟨e, s, rfl, by cases h; rfl⟩
  | fault f => cases h
  | refused r => cases h

/-- What an operation leaves: `Q` where it ends well, `E` where it raises, `stop` where it faults or is refused. With `stop` false it
says that the operation neither faults nor is refused. -/
def Res.Sat (stop : Prop) (Q : α → State → Prop) (E : StreamError → State → Prop) : Res α → Prop
  | .ok a s => Q a s
  | .raised e s => E e s
  | .fault _ => stop
  | .refused _ => stop

variable {stop : Prop} {Q Q' : α → State → Prop} {E E' : StreamError → State → Prop} {R : β → State → Prop}

@[simp] theorem sat_ok (a : α) (s : State) : (Res.ok a s).Sat stop Q E ↔ Q a s := Iff.rfl
@[simp] theorem sat_raised (e : StreamError) (s : State) : (Res.raised e s : Res α).Sat stop Q E ↔ E e s := Iff.rfl
@[simp] theorem sat_fault (f : Fault) : (Res.fault f : Res α).Sat stop Q E ↔ stop := Iff.rfl
@[simp] theorem sat_refused (r : Refusal) : (Res.refused r : Res α).Sat stop Q E ↔ stop := Iff.rfl

/-- The rule for two operations one after the other. -/
theorem Res.Sat.bind {r : Res α} {k : α → State → Res β} (h : r.Sat stop Q E) (hk : ∀ a s, Q a s → (k a s).Sat stop R E) :
    (r.bind k).Sat stop R E := by
  cases r with
  | ok a s => exact hk a s h
  | raised e s => exact h
  | fault f => exact h
  | refused r => exact h

/-- A weaker claim about the same operation. -/
theorem Res.Sat.weaken {r : Res α} (h : r.Sat stop Q E) (hQ : ∀ a s, Q a s → Q' a s) (hE : ∀ e s, E e s → E' e s) :
    r.Sat stop Q' E' := by
  cases r with
  | ok a s => exact hQ a s h
  | raised e s => exact hE e s h
  | fault f => exact h
  | refused r => exact h

/-- Two claims about the same operation. -/
theorem Res.Sat.and {r : Res α} (h : r.Sat stop Q E) (h' : r.Sat stop Q' E') :
    r.Sat stop (fun a s => Q a s ∧ Q' a s) (fun e s => E e s ∧ E' e s) := by
  cases r with
  | ok a s => exact ⟨h, h'⟩
  | raised e s => exact ⟨h, h'⟩
  | fault f => exact h
  | refused r => exact h

/-- What `finish` answers, from what the operation leaves. -/
theorem Res.Sat.finish {r : Res Unit} {P : State → Prop} (h : r.Sat True (fun _ s => P s) (fun e s => P (s.latch e))) {t : State}
    (ht : r.finish = .next t) : P t := by
  rcases finish_next ht with rfl | ⟨e, s, rfl, rfl⟩
  · exact h
  · exact h

/-- An operation that neither faults nor is refused ends its step in a next state. -/
theorem Res.Sat.finish_exists {r : Res Unit} {P : State → Prop}
    (h : r.Sat False (fun _ s => P s) (fun e s => P (s.latch e))) : ∃ t, r.finish = .next t ∧ P t := by
  cases r with
  | ok a s => exact ⟨s, rfl, h⟩
  | raised e s => exact ⟨s.latch e, rfl, h⟩
  | fault f => exact h.elim
  | refused r => exact h.elim

end Sys2Proof.Machine
end

