-- ==== Sys2Proof/Laws/Storage.lean ====
section
/-! SUPPORT. Window storage: read after write, the canonical form is kept, and what a put and a copy do. -/

namespace Sys2Proof.Machine

open Sys2Proof

@[simp] theorem read_nil (a : Nat) : Memory.read [] a = none := rfl

/-- A read of the index just written gives the byte written. -/
@[simp] theorem read_write_same (m : Memory) (a : Nat) (v : Byte) : Memory.read (Memory.write m a v) a = some v := by
  induction m with
  | nil => simp [Memory.write, Memory.read]
  | cons c m ih =>
    obtain ⟨i, b⟩ := c
    simp only [Memory.write]
    split
    · simp [Memory.read]
    · split
      · simp [Memory.read]
      · rw [Memory.read, if_neg (by omega), ih]

/-- A read of any other index gives what it gave before. -/
theorem read_write_other (m : Memory) {a x : Nat} (v : Byte) (h : x ≠ a) :
    Memory.read (Memory.write m a v) x = Memory.read m x := by
  induction m with
  | nil => simp [Memory.write, Memory.read, Ne.symm h]
  | cons c m ih =>
    obtain ⟨i, b⟩ := c
    simp only [Memory.write]
    split
    · rw [Memory.read, if_neg (Ne.symm h)]
    · split
      · next h2 => subst h2; simp [Memory.read, Ne.symm h]
      · simp [Memory.read, ih]

theorem risingFrom_write (m : Memory) (lo a : Nat) (v : Byte) (h : lo ≤ a) (hm : Memory.risingFrom lo m = true) :
    Memory.risingFrom lo (Memory.write m a v) = true := by
  induction m generalizing lo with
  | nil => simp [Memory.write, Memory.risingFrom, h]
  | cons c m ih =>
    obtain ⟨i, b⟩ := c
    simp only [Memory.risingFrom, Bool.and_eq_true, decide_eq_true_eq] at hm
    simp only [Memory.write]
    split
    · simp only [Memory.risingFrom, Bool.and_eq_true, decide_eq_true_eq]
      exact ⟨h, by omega, hm.2⟩
    · split
      · next h2 => subst h2; simp [Memory.risingFrom, hm.1, hm.2]
      · simp only [Memory.risingFrom, Bool.and_eq_true, decide_eq_true_eq]
        exact ⟨hm.1, ih (i + 1) (by omega) hm.2⟩

theorem inRange_write (m : Memory) (a : Nat) (v : Byte) (h : a < Config.windowCapacity) (hm : Memory.inRange m = true) :
    Memory.inRange (Memory.write m a v) = true := by
  induction m with
  | nil => simp [Memory.write, Memory.inRange, h]
  | cons c m ih =>
    obtain ⟨i, b⟩ := c
    simp only [Memory.inRange, List.all_cons, Bool.and_eq_true, decide_eq_true_eq] at hm ih
    simp only [Memory.write]
    split
    · simp [Memory.inRange, h, hm.1]; simpa using hm.2
    · split
      · simp [Memory.inRange, h]; simpa using hm.2
      · simp only [Memory.inRange, List.all_cons, Bool.and_eq_true, decide_eq_true_eq]
        exact ⟨hm.1, ih hm.2⟩

/-- A write inside the storage keeps the canonical form. -/
theorem write_wf (m : Memory) (a : Nat) (v : Byte) (h : a < Config.windowCapacity) (hm : Memory.wf m = true) :
    Memory.wf (Memory.write m a v) = true := by
  simp only [Memory.wf, Bool.and_eq_true] at hm ⊢
  exact ⟨risingFrom_write m 0 a v (Nat.zero_le a) hm.1, inRange_write m a v h hm.2⟩

/-- The storage after reset is in canonical form. -/
theorem reset_wf : Memory.wf State.reset.win.mem = true := rfl

@[simp] theorem put_mem (w : Window) (b : Byte) : (w.put b).mem = Memory.write w.mem w.wptr b := rfl
@[simp] theorem put_wptr (w : Window) (b : Byte) : (w.put b).wptr = (w.wptr + 1) % Config.windowCapacity := rfl
@[simp] theorem put_filled (w : Window) (b : Byte) : (w.put b).filled = min (w.filled + 1) Config.windowCapacity := rfl
@[simp] theorem put_maxDist (w : Window) (b : Byte) : (w.put b).maxDist = w.maxDist := rfl
@[simp] theorem put_acq (w : Window) (b : Byte) : (w.put b).acq = w.acq := rfl

/-- The byte just put is the one at distance 1. -/
theorem look_put_one (w : Window) (b : Byte) (h : w.wptr < Config.windowCapacity) : (w.put b).look 1 = some b := by
  have : (w.put b).index 1 = w.wptr := by
    simp only [Window.index, put_wptr, Config.windowCapacity] at *; omega
  simp [Window.look, this]

/-- A put moves every retrievable byte one further back. -/
theorem look_put_succ (w : Window) (b : Byte) (d : Nat) (h : w.wptr < Config.windowCapacity) (hd : 1 ≤ d)
    (hd' : d < Config.windowCapacity) : (w.put b).look (d + 1) = w.look d := by
  have h1 : (w.put b).index (d + 1) = w.index d := by
    simp only [Window.index, put_wptr, Config.windowCapacity] at *; omega
  have h2 : w.index d ≠ w.wptr := by
    simp only [Window.index, Config.windowCapacity] at *; omega
  simp [Window.look, h1, read_write_other _ _ h2]

/-- A put keeps the window's ranges, its canonical form and its retrievable bytes. -/
theorem put_windowOk {w : Window} (b : Byte) (h : WindowOk w) : WindowOk (w.put b) := by
  obtain ⟨h1, h2, h3, h4, h5, h6⟩ := h
  refine ⟨Nat.mod_lt _ (by decide), by simp only [put_filled]; omega, h3, h4, write_wf _ _ _ h1 h5, ?_⟩
  intro d hd hd'
  obtain ⟨e, rfl⟩ := Nat.exists_eq_add_of_le' hd
  by_cases he : e = 0
  · subst he; rw [look_put_one w b h1]; rfl
  · rw [look_put_succ w b e h1 (by omega) (by simp only [put_filled] at hd'; omega)]
    exact h6 e (by omega) (by simp only [put_filled] at hd'; omega)

/-- What `WinPut` answers. -/
theorem winPut_held {s : State} (b : Byte) (h : s.win.acq = true) : winPut b s = .ok () (s.putByte b) := by
  simp [winPut, h]

theorem winPut_not_held {s : State} (b : Byte) (h : s.win.acq = false) : winPut b s = .refused .windowNotHeld := by
  simp [winPut, h]

/-- What `Legal(d)` says. -/
theorem legal_iff (w : Window) (d : Nat) : w.legal d = true ↔ 0 < d ∧ d ≤ w.maxDist ∧ d ≤ w.filled := by
  simp [Window.legal, and_assoc]

/-- Everything `WinCopy` can answer. -/
theorem winCopy_cases (d : Nat) (s : State) :
    (s.win.acq = false ∧ winCopy d s = .refused .windowNotHeld)
      ∨ (s.win.acq = true ∧ s.win.legal d = false ∧ winCopy d s = .raised .illegalDistance s)
      ∨ (s.win.acq = true ∧ s.win.legal d = true ∧ s.win.look d = none
          ∧ winCopy d s = .fault (.windowByteUnwritten (s.win.index d)))
      ∨ ∃ b, s.win.acq = true ∧ s.win.legal d = true ∧ s.win.look d = some b ∧ winCopy d s = .ok b (s.putByte b) := by
  unfold winCopy
  cases h : s.win.acq <;> cases hl : s.win.legal d <;> cases hk : s.win.look d <;> simp_all

/-- A copy in a good window ends well or raises. -/
theorem winCopy_ok {s : State} {d : Nat} (hw : WindowOk s.win) (ha : s.win.acq = true) (hd : s.win.legal d = true) :
    ∃ b, s.win.look d = some b ∧ winCopy d s = .ok b (s.putByte b) := by
  obtain ⟨h0, -, h2⟩ := (legal_iff _ _).1 hd
  obtain ⟨b, hb⟩ := Option.isSome_iff_exists.1 (hw.2.2.2.2.2 d h0 h2)
  exact ⟨b, hb, by simp [winCopy, ha, hd, hb]⟩

end Sys2Proof.Machine
end

