-- ==== Sys2Proof/Laws/Stream.lean ====
section
/-! SUPPORT. The BitCursor against the stream as a list of bits: what each read takes from `upcoming`, and what it does to the cursor. -/

namespace Sys2Proof.Machine

open Sys2Proof

@[simp] theorem byteBits_length (b : Byte) : (byteBits b).length = 8 := by simp [byteBits]

theorem byteBits_drop_cons (b : Byte) {p : Nat} (h : p < 8) :
    (byteBits b).drop p = b.getLsbD p :: (byteBits b).drop (p + 1) := by
  rw [List.drop_eq_getElem_cons (by simpa using h)]; simp [byteBits]

@[simp] theorem byteBits_drop_eight (b : Byte) : (byteBits b).drop 8 = [] := List.drop_eq_nil_of_le (by simp)

/-- The state with another cursor. -/
abbrev State.atCursor (c : BitCursor) (s : State) : State := { s with bc := c }

theorem succ_val {p : Fin 9} (h : p ≠ 8) : (p + 1).val = p.val + 1 := by
  revert h; revert p; decide

theorem succ_ne_zero {p : Fin 9} (h : p ≠ 8) : p + 1 ≠ 0 := by
  revert h; revert p; decide

theorem lt_eight {p : Fin 9} (h : p ≠ 8) : p.val < 8 := by
  revert h; revert p; decide

/-- The upcoming bits when a bit is buffered. -/
theorem upcoming_buffered {s : State} (h : s.bc.pos ≠ 8) :
    s.upcoming = s.bc.cur.getLsbD s.bc.pos.val :: State.upcoming (s.atCursor { s.bc with pos := s.bc.pos + 1 }) := by
  simp only [State.upcoming]
  rw [byteBits_drop_cons _ (lt_eight h), succ_val h]; rfl

/-- The upcoming bits when none is buffered and the source goes on. -/
theorem upcoming_pull {s : State} {b : Byte} (h : s.bc.pos = 8) (hb : s.src[s.bc.next]? = some b) :
    s.upcoming = b.getLsbD 0 :: State.upcoming (s.atCursor { cur := b, pos := 1, next := s.bc.next + 1 }) := by
  obtain ⟨hlt, hb⟩ := List.getElem?_eq_some_iff.1 hb
  simp only [State.upcoming, h]
  rw [List.drop_eq_getElem_cons hlt, hb]
  simp only [List.flatMap_cons]
  rw [show byteBits b = b.getLsbD 0 :: (byteBits b).drop 1 by simpa using byteBits_drop_cons b (p := 0) (by decide)]
  simp

/-- At the end of the source no bit is left. -/
theorem upcoming_end {s : State} (h : s.bc.pos = 8) (hb : s.src[s.bc.next]? = none) : s.upcoming = [] := by
  simp only [State.upcoming, h]
  rw [List.drop_eq_nil_of_le (List.getElem?_eq_none_iff.1 hb)]
  simp

/-- Everything `ReadBit` can do. -/
theorem readBit_cases (s : State) :
    (s.bc.pos ≠ 8 ∧ readBit s = .ok (s.bc.cur.getLsbD s.bc.pos.val) (s.atCursor { s.bc with pos := s.bc.pos + 1 }))
      ∨ (∃ b, s.bc.pos = 8 ∧ s.src[s.bc.next]? = some b
          ∧ readBit s = .ok (b.getLsbD 0) (s.atCursor { cur := b, pos := 1, next := s.bc.next + 1 }))
      ∨ (s.bc.pos = 8 ∧ s.src[s.bc.next]? = none ∧ readBit s = .raised .unexpectedEndOfStream s) := by
  by_cases h : s.bc.pos = 8
  · cases hb : s.src[s.bc.next]? with
    | none => exact .inr (.inr ⟨h, rfl, by simp [readBit, h, srcPull, hb]⟩)
    | some b =>
      refine .inr (.inl ⟨b, h, rfl, ?_⟩)
      simp [readBit, h, srcPull, hb, takeBit]
  · exact .inl ⟨h, by simp [readBit, h, takeBit]⟩

theorem bitpos_pos_eight {s : State} (h : s.bc.pos = 8) : s.bitpos = 8 * s.bc.next := by
  simp [State.bitpos, h]

/-- A consumed bit moves the stream position on by one (10_state R41). -/
theorem bitpos_buffered {s : State} (h : s.bc.pos ≠ 8) (hn : 0 < s.bc.next) :
    State.bitpos (s.atCursor { s.bc with pos := s.bc.pos + 1 }) = s.bitpos + 1 := by
  have := lt_eight h
  simp only [State.bitpos, succ_val h, if_pos this]
  split <;> omega

theorem bitpos_pull {s : State} {b : Byte} (h : s.bc.pos = 8) :
    State.bitpos (s.atCursor { cur := b, pos := 1, next := s.bc.next + 1 }) = s.bitpos + 1 := by
  rw [bitpos_pos_eight h]
  have : (1 : Fin 9).val = 1 := rfl
  simp only [State.bitpos, this]
  split <;> omega

theorem cursorOk_buffered {s : State} (h : s.bc.pos ≠ 8) (hs : CursorOk s) :
    CursorOk (s.atCursor { s.bc with pos := s.bc.pos + 1 }) :=
  ⟨hs.1, fun hn => absurd (hs.2.1 hn).1 h, hs.2.2.1, succ_ne_zero h⟩

theorem cursorOk_pull {s : State} {b : Byte} (hb : s.src[s.bc.next]? = some b) :
    CursorOk (s.atCursor { cur := b, pos := 1, next := s.bc.next + 1 }) := by
  obtain ⟨hlt, -⟩ := List.getElem?_eq_some_iff.1 hb
  exact ⟨hlt, fun h => by simp at h, fun _ => by simpa using hb, (by decide : (1 : Fin 9) ≠ 0)⟩

theorem cursorOk_align {s : State} (hs : CursorOk s) : CursorOk s.align :=
  ⟨hs.1, fun hn => ⟨rfl, (hs.2.1 hn).2⟩, hs.2.2.1, (by decide : (8 : Fin 9) ≠ 0)⟩

/-- Aligning moves the stream position on, or keeps it (10_state R41). -/
theorem bitpos_align (s : State) : s.bitpos ≤ s.align.bitpos := by
  rw [bitpos_pos_eight (s := s.align) rfl, State.bitpos]
  simp only [align_bc]
  split <;> omega

/-- What reading the stream does to a state: the cursor moves on in the source, and no other field is written. -/
structure Reads (s t : State) : Prop where
  same : t = s.atCursor t.bc
  cursor : CursorOk s → CursorOk t
  position : CursorOk s → s.bitpos ≤ t.bitpos
  pulled : s.bc.next ≤ t.bc.next

theorem Reads.refl (s : State) : Reads s s := ⟨rfl, id, fun _ => Nat.le_refl _, Nat.le_refl _⟩

theorem Reads.trans {s t u : State} (h : Reads s t) (h' : Reads t u) : Reads s u where
  same := by rw [h'.same, h.same]
  cursor := fun hs => h'.cursor (h.cursor hs)
  position := fun hs => Nat.le_trans (h.position hs) (h'.position (h.cursor hs))
  pulled := Nat.le_trans h.pulled h'.pulled

theorem Reads.align (s : State) : Reads s s.align := ⟨rfl, cursorOk_align, fun _ => bitpos_align s, Nat.le_refl _⟩

/-- `ReadBit` reads one bit: it moves the position on by one, or raises at the end of the source with nothing changed. -/
theorem readBit_reads (s : State) :
    (readBit s).Sat False (fun _ t => Reads s t ∧ (CursorOk s → t.bitpos = s.bitpos + 1))
      (fun e t => e = .unexpectedEndOfStream ∧ t = s) := by
  rcases readBit_cases s with ⟨h, hr⟩ | ⟨b, h, hb, hr⟩ | ⟨-, -, hr⟩ <;> rw [hr]
  · have hn : CursorOk s → 0 < s.bc.next := fun hs => by
      rcases Nat.eq_zero_or_pos s.bc.next with h0 | h0
      · exact absurd (hs.2.1 h0).1 h
      · exact h0
    exact ⟨⟨rfl, cursorOk_buffered h, fun hs => by rw [bitpos_buffered h (hn hs)]; omega, Nat.le_refl _⟩,
      fun hs => bitpos_buffered h (hn hs)⟩
  · exact ⟨⟨rfl, fun _ => cursorOk_pull hb, fun _ => by rw [bitpos_pull h]; omega, Nat.le_succ _⟩, fun _ => bitpos_pull h⟩
  · exact ⟨rfl, rfl⟩

/-- `ReadBit` takes the next bit of the stream. -/
theorem readBit_upcoming {s : State} {b : Bool} {rest : List Bool} (h : s.upcoming = b :: rest) :
    ∃ t, readBit s = .ok b t ∧ t.upcoming = rest ∧ Reads s t
      ∧ t.bc.next = (if s.bc.pos = 8 then s.bc.next + 1 else s.bc.next) := by
  have hr := readBit_reads s
  rcases readBit_cases s with ⟨hp, hb⟩ | ⟨c, hp, hc, hb⟩ | ⟨hp, hc, hb⟩ <;> rw [hb] at hr
  · rw [upcoming_buffered hp] at h
    simp only [List.cons.injEq] at h
    exact ⟨_, by rw [hb, h.1], h.2, hr.1, by simp [hp]⟩
  · rw [upcoming_pull hp hc] at h
    simp only [List.cons.injEq] at h
    exact ⟨_, by rw [hb, h.1], h.2, hr.1, by simp [hp]⟩
  · rw [upcoming_end hp hc] at h; cases h

/-- `ReadBit` at the end of the stream. -/
theorem readBit_end {s : State} (h : s.upcoming = []) : readBit s = .raised .unexpectedEndOfStream s := by
  rcases readBit_cases s with ⟨hp, hb⟩ | ⟨c, hp, hc, hb⟩ | ⟨hp, hc, hb⟩
  · rw [upcoming_buffered hp] at h; cases h
  · rw [upcoming_pull hp hc] at h; cases h
  · exact hb

/-- The value of `n` bits fits `n` bits. -/
theorem bitsValue_lt (bits : List Bool) : bitsValue bits < 2 ^ bits.length := by
  induction bits with
  | nil => decide
  | cons b bits ih =>
    have := Bool.toNat_le b
    simp only [bitsValue, List.length_cons, Nat.pow_succ]; omega

/-- `n` bits of the stream. -/
theorem readBitsLoop_reads (n : Nat) (s : State) :
    (readBitsLoop n s).Sat False (fun v t => Reads s t ∧ (CursorOk s → t.bitpos = s.bitpos + n) ∧ v < 2 ^ n)
      (fun e t => e = .unexpectedEndOfStream ∧ Reads s t) := by
  induction n generalizing s with
  | zero => exact ⟨Reads.refl s, fun _ => rfl, by decide⟩
  | succ n ih =>
    refine Res.Sat.bind (Q := fun _ t => Reads s t ∧ (CursorOk s → t.bitpos = s.bitpos + 1))
      ((readBit_reads s).weaken (fun _ _ h => h) (fun _ _ h => ⟨h.1, h.2 ▸ Reads.refl s⟩)) ?_
    intro b s1 h1
    refine Res.Sat.bind (Q := fun v t => Reads s t ∧ (CursorOk s → t.bitpos = s.bitpos + (n + 1)) ∧ v < 2 ^ n)
      ((ih s1).weaken ?_ fun _ _ h => ⟨h.1, h1.1.trans h.2⟩) ?_
    · intro v t h
      exact ⟨h1.1.trans h.1, fun hs => by rw [h.2.1 (h1.1.cursor hs), h1.2 hs]; omega, h.2.2⟩
    · intro v t h
      have := Bool.toNat_le b
      exact ⟨h.1, h.2.1, by rw [Nat.pow_succ]; omega⟩

theorem readBitsLoop_upcoming (bits : List Bool) {rest : List Bool} {s : State} (h : s.upcoming = bits ++ rest) :
    ∃ t, readBitsLoop bits.length s = .ok (bitsValue bits) t ∧ t.upcoming = rest ∧ Reads s t
      ∧ (bits = [] → t = s) := by
  induction bits generalizing s with
  | nil => exact ⟨s, rfl, h, Reads.refl s, fun _ => rfl⟩
  | cons b bits ih =>
    obtain ⟨s1, h1, h2, h3, -⟩ := readBit_upcoming (by simpa using h)
    obtain ⟨t, h4, h5, h6, -⟩ := ih h2
    exact ⟨t, by simp [readBitsLoop, h1, h4, bitsValue], h5, h3.trans h6, fun hn => by cases hn⟩

theorem readBitsLoop_end (n : Nat) {s : State} (h : s.upcoming.length < n) :
    ∃ t, readBitsLoop n s = .raised .unexpectedEndOfStream t ∧ t.upcoming = [] ∧ Reads s t := by
  induction n generalizing s with
  | zero => omega
  | succ n ih =>
    cases hu : s.upcoming with
    | nil => exact ⟨s, by simp [readBitsLoop, readBit_end hu], hu, Reads.refl s⟩
    | cons b rest =>
      obtain ⟨s1, h1, h2, h3, -⟩ := readBit_upcoming hu
      obtain ⟨t, h4, h5, h6⟩ := ih (s := s1) (by rw [h2]; rw [hu] at h; simpa using h)
      exact ⟨t, by simp [readBitsLoop, h1, h4], h5, h3.trans h6⟩

theorem readBits_eq {n : Nat} (h : n ≤ 24) (s : State) : readBits n s = readBitsLoop n s := by
  simp [readBits, Config.maxReadBits, Nat.not_lt.2 h]

/-- Everything `ReadBits` can do for a width the contract allows. -/
theorem readBits_reads {n : Nat} (hn : n ≤ 24) (s : State) :
    (readBits n s).Sat False (fun v t => Reads s t ∧ (CursorOk s → t.bitpos = s.bitpos + n) ∧ v < 2 ^ n)
      (fun e t => e = .unexpectedEndOfStream ∧ Reads s t) := by
  rw [readBits_eq hn]; exact readBitsLoop_reads n s

/-- `ReadBits` takes the next field of the stream. -/
theorem readBits_upcoming (bits : List Bool) {rest : List Bool} {s : State} (hn : bits.length ≤ 24) (h : s.upcoming = bits ++ rest) :
    ∃ t, readBits bits.length s = .ok (bitsValue bits) t ∧ t.upcoming = rest ∧ Reads s t ∧ (bits = [] → t = s) := by
  rw [readBits_eq hn]; exact readBitsLoop_upcoming bits h

/-- The value of a byte's bits is the byte. -/
theorem bitsValue_byteBits (b : Byte) : bitsValue (byteBits b) = b.toNat := by
  revert b; decide

/-- An aligned cursor's upcoming bits are those of the bytes not yet pulled. -/
theorem upcoming_aligned {s : State} (h : s.bc.pos = 8) : s.upcoming = (s.src.drop s.bc.next).flatMap byteBits := by
  simp only [State.upcoming, h]
  rw [show (8 : Fin 9).val = 8 from rfl]; simp

theorem readBit_pos {s t : State} {b : Bool} (h : readBit s = .ok b t) :
    t.bc.pos.val = (if s.bc.pos = 8 then 1 else s.bc.pos.val + 1)
      ∧ (s.bc.pos ≠ 8 → t.bc.cur = s.bc.cur ∧ t.bc.next = s.bc.next)
      ∧ (s.bc.pos = 8 → s.src[s.bc.next]? = some t.bc.cur ∧ t.bc.next = s.bc.next + 1) := by
  rcases readBit_cases s with ⟨hp, hb⟩ | ⟨c, hp, hc, hb⟩ | ⟨hp, hc, hb⟩ <;> rw [hb] at h <;> cases h
  · exact ⟨by simp [hp, succ_val hp], fun _ => ⟨rfl, rfl⟩, fun h => absurd h hp⟩
  · exact ⟨by simp [hp], fun h => absurd hp h, fun _ => ⟨hc, rfl⟩⟩

end Sys2Proof.Machine
end

