-- ==== Sys2Proof/Laws/Bytes.lean ====
section
/-! SUPPORT. Aligned bytes: what `ReadAlignedByte` and the reads made of it do. -/

namespace Sys2Proof.Machine

open Sys2Proof

theorem readBit_pull {s : State} {b : Byte} (h : s.bc.pos = 8) (hb : s.src[s.bc.next]? = some b) :
    readBit s = .ok (b.getLsbD 0) (s.atCursor { cur := b, pos := 1, next := s.bc.next + 1 }) := by
  simp [readBit, h, srcPull, hb, takeBit]

theorem readBit_buffered {s : State} (h : s.bc.pos ≠ 8) :
    readBit s = .ok (s.bc.cur.getLsbD s.bc.pos.val) (s.atCursor { s.bc with pos := s.bc.pos + 1 }) := by
  simp [readBit, h, takeBit]

/-- `n` buffered bits, `n` of them left. -/
theorem readBitsLoop_buffered (n : Nat) {s : State} (p : Fin 9) (hp : s.bc.pos = p) (h : p.val + n = 8) :
    ∃ v, readBitsLoop n s = .ok v (s.atCursor { s.bc with pos := 8 }) := by
  induction n generalizing s p with
  | zero =>
    have : p = 8 := Fin.ext (by simpa using h)
    refine ⟨0, ?_⟩
    simp only [readBitsLoop, State.atCursor]
    rw [← this, ← hp]
  | succ n ih =>
    have hne : p ≠ 8 := fun hc => by rw [hc] at h; simp at h
    obtain ⟨v, hv⟩ := ih (s := s.atCursor { s.bc with pos := p + 1 }) (p + 1) rfl (by rw [succ_val hne]; omega)
    exact ⟨_, by rw [readBitsLoop, readBit_buffered (hp ▸ hne), bind_ok, hp, hv, bind_ok]⟩

/-- `ReadAlignedByte` gives the next source byte. -/
theorem readAlignedByte_some {s : State} {b : Byte} (hb : s.src[s.bc.next]? = some b) :
    readAlignedByte s = .ok b (s.atCursor { cur := b, pos := 8, next := s.bc.next + 1 }) := by
  have hu : s.align.upcoming = byteBits b ++ (s.src.drop (s.bc.next + 1)).flatMap byteBits := by
    obtain ⟨hlt, hb⟩ := List.getElem?_eq_some_iff.1 hb
    rw [upcoming_aligned (s := s.align) rfl]
    simp only [align_src, align_bc]
    rw [List.drop_eq_getElem_cons hlt, hb, List.flatMap_cons]
  obtain ⟨t, ht, -, -, -⟩ := readBits_upcoming (byteBits b) (by simp) hu
  obtain ⟨v, hv⟩ := readBitsLoop_buffered 7 (s := s.align.atCursor { cur := b, pos := 1, next := s.bc.next + 1 }) 1 rfl rfl
  have h8 : readBits 8 s.align
      = .ok ((b.getLsbD 0).toNat + 2 * v) (s.atCursor { cur := b, pos := 8, next := s.bc.next + 1 }) := by
    rw [readBits_eq (by decide), readBitsLoop, readBit_pull (s := s.align) (b := b) rfl hb, bind_ok]
    simp only [align_bc]
    rw [hv]; rfl
  rw [byteBits_length, h8] at ht
  injection ht with h1 h2
  rw [readAlignedByte, h8, bind_ok, h1, bitsValue_byteBits, BitVec.ofNat_toNat, BitVec.setWidth_eq]

/-- `ReadAlignedByte` at the end of the source: the cursor is aligned and nothing is pulled. -/
theorem readAlignedByte_none {s : State} (hb : s.src[s.bc.next]? = none) :
    readAlignedByte s = .raised .unexpectedEndOfStream s.align := by
  have hu : s.align.upcoming = [] := upcoming_end (s := s.align) rfl hb
  rw [readAlignedByte, readBits_eq (by decide), readBitsLoop, readBit_end hu]; rfl

/-- Everything `ReadAlignedByte` can do. -/
theorem readAlignedByte_reads (s : State) :
    (readAlignedByte s).Sat False
      (fun b t => s.src[s.bc.next]? = some b ∧ t = s.atCursor { cur := b, pos := 8, next := s.bc.next + 1 } ∧ Reads s t
        ∧ (CursorOk s → s.bitpos + 8 ≤ t.bitpos))
      (fun e t => e = .unexpectedEndOfStream ∧ s.src[s.bc.next]? = none ∧ t = s.align ∧ Reads s t) := by
  cases hb : s.src[s.bc.next]? with
  | none => rw [readAlignedByte_none hb]; exact ⟨rfl, rfl, rfl, Reads.align s⟩
  | some b =>
    rw [readAlignedByte_some hb]
    obtain ⟨hlt, -⟩ := List.getElem?_eq_some_iff.1 hb
    have hp : s.bitpos + 8 ≤ State.bitpos (s.atCursor { cur := b, pos := 8, next := s.bc.next + 1 }) := by
      have := bitpos_align s
      rw [bitpos_pos_eight (s := s.align) rfl] at this
      rw [bitpos_pos_eight (s := s.atCursor { cur := b, pos := 8, next := s.bc.next + 1 }) rfl]
      simp only [align_bc] at this ⊢
      omega
    exact ⟨rfl, rfl, ⟨rfl, fun _ => ⟨hlt, fun h => by simp at h, fun _ => by simpa using hb, (by decide : (8 : Fin 9) ≠ 0)⟩, fun _ => by omega, Nat.le_succ _⟩,
      fun _ => hp⟩

/-- The reads that take bytes leave a state that `Reads` says. -/
theorem readBytes_reads (n : Nat) (s : State) :
    (readBytes n s).Sat False (fun _ t => Reads s t) (fun e t => e = .unexpectedEndOfStream ∧ Reads s t) := by
  induction n generalizing s with
  | zero => exact Reads.refl s
  | succ n ih =>
    refine Res.Sat.bind (Q := fun _ t => Reads s t)
      ((readAlignedByte_reads s).weaken (fun _ _ h => h.2.2.1) fun _ _ h => ⟨h.1, h.2.2.2⟩) fun b s1 h1 => ?_
    exact Res.Sat.bind (Q := fun _ t => Reads s t) ((ih s1).weaken (fun _ _ h => h1.trans h) fun _ _ h => ⟨h.1, h1.trans h.2⟩)
      fun _ _ h => h

/-- `n` bytes of the source, read from an aligned cursor or one that is aligned first. -/
theorem readBytes_drop (bs : List Byte) {more : List Byte} {s : State} (h : s.src.drop s.bc.next = bs ++ more) :
    ∃ t, readBytes bs.length s = .ok bs t ∧ Reads s t ∧ t.bc.next = s.bc.next + bs.length
      ∧ (∀ b, bs.getLast? = some b → t.bc = { cur := b, pos := 8, next := s.bc.next + bs.length })
      ∧ t.src.drop t.bc.next = more := by
  induction bs generalizing s with
  | nil => exact ⟨s, rfl, Reads.refl s, rfl, fun b hb => (by cases hb), h⟩
  | cons b bs ih =>
    have hb : s.src[s.bc.next]? = some b := by
      have := congrArg List.head? h
      simpa using this
    have hr := readAlignedByte_reads s
    rw [readAlignedByte_some hb] at hr
    have hd : s.src.drop (s.bc.next + 1) = bs ++ more := by
      have := congrArg List.tail h
      simpa using this
    obtain ⟨t, h1, h2, h3, h4, h5⟩ := ih (s := s.atCursor { cur := b, pos := 8, next := s.bc.next + 1 }) hd
    refine ⟨t, by rw [List.length_cons, readBytes, readAlignedByte_some hb, bind_ok, h1, bind_ok], hr.2.2.1.trans h2, ?_, ?_, h5⟩
    · rw [h3]; simp only [List.length_cons]; omega
    · intro c hc
      cases hbs : bs with
      | nil =>
        subst hbs
        simp only [List.getLast?_singleton, Option.some.injEq] at hc
        simp only [List.length_nil, readBytes, Res.ok.injEq] at h1
        rw [← h1.2, hc]; rfl
      | cons d ds =>
        subst hbs
        rw [List.getLast?_cons_cons] at hc
        rw [h4 c hc]; simp only [List.length_cons]; congr 1; omega

end Sys2Proof.Machine
end

