-- ==== Sys2Proof/Laws/Resolver.lean ====
section
/-! SUPPORT. Building a table and decoding under it: which symbols a table has, and the resolver against the stream as a list of bits. -/

namespace Sys2Proof.Machine

open Sys2Proof

variable {α : Type}

@[simp] theorem withTable_ok {lengths : List Nat} {s : State} {k : CodeTable → Res α} {t : CodeTable}
    (h : buildCodes lengths = .ok t) : withTable lengths s k = k t := by
  simp [withTable, h]

@[simp] theorem withTable_error {lengths : List Nat} {s : State} {k : CodeTable → Res α} {e : StreamError}
    (h : buildCodes lengths = .error e) : withTable lengths s k = .raised e s := by
  simp [withTable, h]

/-- The one error of a build (41_canonical_huffman R180). -/
theorem buildCodes_error {lengths : List Nat} {e : StreamError} (h : buildCodes lengths = .error e) :
    e = .malformedHuffmanStream := by
  unfold buildCodes at h
  split at h
  · cases h; rfl
  · split at h <;> cases h; rfl

/-- What a build that succeeds has checked, and the table it makes. -/
theorem buildCodes_ok {lengths : List Nat} {t : CodeTable} (h : buildCodes lengths = .ok t) :
    (∀ L ∈ lengths, L ≤ 15) ∧ kraftSum lengths ≤ 2 ^ 15
      ∧ t = ⟨assignCodes (firstCodes lengths) 0 lengths, maxLength lengths⟩ := by
  unfold buildCodes at h
  split at h
  · cases h
  · next h1 =>
    split at h
    · cases h
    · next h2 =>
      refine ⟨fun L hL => ?_, Nat.not_lt.1 h2, by cases h; rfl⟩
      simp only [List.any_eq_true, decide_eq_true_eq, not_exists, not_and, Nat.not_lt] at h1
      exact h1 L hL

theorem buildCodes_of {lengths : List Nat} (h1 : ∀ L ∈ lengths, L ≤ 15) (h2 : kraftSum lengths ≤ 2 ^ 15) :
    buildCodes lengths = .ok ⟨assignCodes (firstCodes lengths) 0 lengths, maxLength lengths⟩ := by
  unfold buildCodes
  rw [if_neg, if_neg (Nat.not_lt.2 h2)]
  simp only [List.any_eq_true, decide_eq_true_eq, not_exists, not_and, Nat.not_lt]
  exact h1

/-- Assigned codes are for symbols of the list, with the length the list gives. -/
theorem assignCodes_mem {next : List Nat} {i : Nat} {ls : List Nat} {c : Code} (h : c ∈ assignCodes next i ls) :
    i ≤ c.sym ∧ ls[c.sym - i]? = some c.len ∧ 0 < c.len := by
  induction ls generalizing next i with
  | nil => cases h
  | cons L ls ih =>
    simp only [assignCodes] at h
    have step : ∀ next', c ∈ assignCodes next' (i + 1) ls → i ≤ c.sym ∧ (L :: ls)[c.sym - i]? = some c.len ∧ 0 < c.len := by
      intro next' h'
      obtain ⟨h1, h2, h3⟩ := ih h'
      refine ⟨by omega, ?_, h3⟩
      rw [show c.sym - i = (c.sym - (i + 1)) + 1 by omega, List.getElem?_cons_succ]; exact h2
    split at h
    · exact step _ h
    · next hL =>
      rcases List.mem_cons.1 h with rfl | h
      · exact ⟨Nat.le_refl _, by simp, by simp only; omega⟩
      · exact step _ h

/-- A table's symbols are indices of the lengths it was built from. -/
theorem code_sym_lt {lengths : List Nat} {t : CodeTable} (h : buildCodes lengths = .ok t) {c : Code} (hc : c ∈ t.codes) :
    c.sym < lengths.length := by
  obtain ⟨-, -, rfl⟩ := buildCodes_ok h
  obtain ⟨-, h2, -⟩ := assignCodes_mem hc
  obtain ⟨h3, -⟩ := List.getElem?_eq_some_iff.1 h2
  simpa using h3

theorem findCode_mem {codes : List Code} {L c : Nat} {e : Code} (h : findCode codes L c = some e) :
    e ∈ codes ∧ e.len = L ∧ e.val = c := by
  refine ⟨List.mem_of_find?_eq_some h, ?_⟩
  simpa using List.find?_some h

theorem resolveLoop_reads (codes : List Code) (n L c : Nat) (s : State) :
    (resolveLoop codes n L c s).Sat False
      (fun sym t => (∃ e ∈ codes, e.sym = sym) ∧ Reads s t ∧ (CursorOk s → s.bitpos + 1 ≤ t.bitpos))
      (fun e t => (e = .unexpectedEndOfStream ∨ e = .malformedHuffmanStream) ∧ Reads s t) := by
  induction n generalizing L c s with
  | zero => exact ⟨.inr rfl, Reads.refl s⟩
  | succ n ih =>
    refine Res.Sat.bind (Q := fun _ t => Reads s t ∧ (CursorOk s → t.bitpos = s.bitpos + 1))
      ((readBit_reads s).weaken (fun _ _ h => h) fun _ _ h => ⟨.inl h.1, h.2 ▸ Reads.refl s⟩) ?_
    intro b s1 h1
    split
    · next e he => exact ⟨⟨e, (findCode_mem he).1, rfl⟩, h1.1, fun hs => by rw [h1.2 hs]⟩
    · refine (ih _ _ s1).weaken (fun sym t h => ⟨h.1, h1.1.trans h.2.1, fun hs => ?_⟩) fun e t h => ⟨h.1, h1.1.trans h.2⟩
      have := h.2.1.position (h1.1.cursor hs)
      rw [h1.2 hs] at this; exact this

/-- Everything `Decode` can do: a symbol of the table after at least one bit, or an error (42_symbol_resolver R211, R212). -/
theorem resolve_reads (t : CodeTable) (s : State) :
    (resolve t s).Sat False
      (fun sym s1 => (∃ e ∈ t.codes, e.sym = sym) ∧ Reads s s1 ∧ (CursorOk s → s.bitpos + 1 ≤ s1.bitpos))
      (fun e s1 => (e = .unexpectedEndOfStream ∨ e = .malformedHuffmanStream) ∧ Reads s s1) :=
  resolveLoop_reads _ _ _ _ s

/-- An operation that only reads the stream does what a scan of the upcoming bits says. -/
def Follows (s : State) (r : Res α) (p : Scan α) : Prop :=
  match p with
  | .good a rest => ∃ t, r = .ok a t ∧ t.upcoming = rest ∧ Reads s t
  | .bad e rest => ∃ t, r = .raised e t ∧ t.upcoming = rest ∧ Reads s t

theorem Follows.bind {β : Type} {s : State} {r : Res α} {p : Scan α} {k : α → State → Res β} {q : α → List Bool → Scan β}
    (h : Follows s r p) (hk : ∀ a t, Reads s t → Follows t (k a t) (q a t.upcoming)) : Follows s (r.bind k) (p.bind q) := by
  cases p with
  | good a rest =>
    obtain ⟨t, rfl, rfl, ht⟩ := h
    have := hk a t ht
    simp only [Scan.bind, bind_ok]
    cases hq : q a t.upcoming <;> rw [hq] at this <;> obtain ⟨u, h1, h2, h3⟩ := this <;> exact ⟨u, h1, h2, ht.trans h3⟩
  | bad e rest =>
    obtain ⟨t, rfl, h2, ht⟩ := h
    exact ⟨t, rfl, h2, ht⟩

/-- `ReadBits` does what the scan of a field says. -/
theorem follows_readBits {n : Nat} (hn : n ≤ 24) (s : State) : Follows s (readBits n s) (takeBits n s.upcoming) := by
  unfold takeBits
  split
  · next h =>
    have hl : (s.upcoming.take n).length = n := by rw [List.length_take]; omega
    obtain ⟨t, h1, h2, h3, -⟩ := readBits_upcoming (s.upcoming.take n) (rest := s.upcoming.drop n) (by omega) (List.take_append_drop ..).symm
    rw [hl] at h1
    exact ⟨t, h1, h2, h3⟩
  · next h =>
    obtain ⟨t, h1, h2, h3⟩ := readBitsLoop_end n (s := s) (by omega)
    exact ⟨t, by rw [readBits_eq hn, h1], h2, h3⟩

theorem follows_resolveLoop (codes : List Code) (n L c : Nat) (s : State) :
    Follows s (resolveLoop codes n L c s) (decodeBits codes n L c s.upcoming) := by
  induction n generalizing L c s with
  | zero => exact ⟨s, rfl, rfl, Reads.refl s⟩
  | succ n ih =>
    cases hu : s.upcoming with
    | nil => exact ⟨s, by rw [resolveLoop, readBit_end hu]; rfl, hu, Reads.refl s⟩
    | cons b bs =>
      obtain ⟨s1, h1, h2, h3, -⟩ := readBit_upcoming hu
      rw [resolveLoop, h1, bind_ok, decodeBits]
      cases findCode codes (L + 1) (c * 2 + b.toNat) with
      | some e => exact ⟨s1, rfl, h2, h3⟩
      | none =>
        have := ih (L + 1) (c * 2 + b.toNat) s1
        rw [h2] at this
        simp only
        cases hd : decodeBits codes n (L + 1) (c * 2 + b.toNat) bs <;> rw [hd] at this <;>
          obtain ⟨t, h4, h5, h6⟩ := this <;> exact ⟨t, h4, h5, h3.trans h6⟩

/-- `Decode` does what the scan of a symbol says. -/
theorem follows_resolve (t : CodeTable) (s : State) : Follows s (resolve t s) (t.decode s.upcoming) := follows_resolveLoop _ _ _ _ s

/-- `Decode` takes the next symbol of the stream. -/
theorem resolve_upcoming {t : CodeTable} {s : State} {sym : Nat} {rest : List Bool} (h : t.decode s.upcoming = .good sym rest) :
    ∃ s1, resolve t s = .ok sym s1 ∧ s1.upcoming = rest ∧ Reads s s1 := by
  have := follows_resolve t s
  rw [h] at this; exact this

/-- The fixed lengths build (41_canonical_huffman R192). -/
theorem fixed_litlen_builds : (buildCodes fixedLitlenLengths).toOption.isSome = true := by decide +kernel

theorem fixed_dist_builds : (buildCodes fixedDistLengths).toOption.isSome = true := by decide +kernel

end Sys2Proof.Machine
end

