-- ==== Sys2Proof/Laws/Canonical.lean ====
section
/-! SUPPORT. Canonical code values: where each code of a built table lies on the scale of 15-bit codes. -/

namespace Sys2Proof.Machine

open Sys2Proof


/-- The Kraft weight of the lengths below `L`, written with 15 (41_canonical_huffman R184). -/
def kraftBelow (lengths : List Nat) : Nat → Nat
  | 0 => 0
  | L + 1 => kraftBelow lengths L + lengthCount lengths L * 2 ^ (15 - L)

theorem kraftBelow_mono (lengths : List Nat) {K L : Nat} (h : K ≤ L) : kraftBelow lengths K ≤ kraftBelow lengths L := by
  induction L with
  | zero => rw [Nat.le_zero.1 h]
  | succ L ih =>
    rcases Nat.eq_or_lt_of_le h with rfl | h'
    · exact Nat.le_refl _
    · exact Nat.le_trans (ih (Nat.le_of_lt_succ h')) (Nat.le_add_right _ _)

theorem kraftSum_eq (lengths : List Nat) : kraftSum lengths = kraftBelow lengths 16 := by
  simp [kraftSum, kraftBelow, lengthCount, Config.maxCodeLen, List.range_succ, Nat.add_assoc]

/-- The first code values by length. -/
def firstCode (lengths : List Nat) : Nat → Nat
  | 0 => 0
  | L + 1 => (firstCode lengths L + lengthCount lengths L) * 2

theorem firstCodesFrom_getD (lengths : List Nat) (n L : Nat) (k : Nat) (h : k < n) :
    (firstCodesFrom lengths n L (firstCode lengths L)).getD k 0 = firstCode lengths (L + k) := by
  induction n generalizing L k with
  | zero => omega
  | succ n ih =>
    cases k with
    | zero => rfl
    | succ k =>
      rw [firstCodesFrom, List.getD_cons_succ]
      have := ih (L + 1) k (by omega)
      rw [show L + (k + 1) = L + 1 + k by omega, ← this]; rfl

theorem firstCodes_getD (lengths : List Nat) {L : Nat} (h : L ≤ 15) : (firstCodes lengths).getD L 0 = firstCode lengths L := by
  have := firstCodesFrom_getD lengths 16 0 L (by omega)
  rw [Nat.zero_add] at this; exact this

theorem firstCodesFrom_length (lengths : List Nat) (n L c : Nat) : (firstCodesFrom lengths n L c).length = n := by
  induction n generalizing L c with
  | zero => rfl
  | succ n ih => rw [firstCodesFrom, List.length_cons, ih]

theorem firstCode_scaled (lengths : List Nat) {L : Nat} (h : L ≤ 15) : firstCode lengths L * 2 ^ (15 - L) = kraftBelow lengths L := by
  induction L with
  | zero => exact Nat.zero_mul _
  | succ L ih =>
    rw [firstCode, kraftBelow, ← ih (by omega), show 15 - L = (15 - (L + 1)) + 1 by omega, Nat.pow_succ]
    ring

/-- An assigned value: the first code left of its length, and the symbols of that length assigned before. -/
theorem assignCodes_val {next : List Nat} {i : Nat} {ls : List Nat} {c : Code} (hn : ∀ L ∈ ls, L < next.length)
    (h : c ∈ assignCodes next i ls) : c.val = next.getD c.len 0 + (ls.take (c.sym - i)).countP (· == c.len) := by
  induction ls generalizing next i with
  | nil => cases h
  | cons L ls ih =>
    have hL := hn L (List.mem_cons_self ..)
    have hls : ∀ K ∈ ls, K < next.length := fun K hK => hn K (List.mem_cons_of_mem _ hK)
    simp only [assignCodes] at h
    split at h
    · next h0 =>
      obtain ⟨h1, h2, h3⟩ := assignCodes_mem h
      rw [ih hls h, show c.sym - i = (c.sym - (i + 1)) + 1 by omega, List.take_succ_cons, List.countP_cons_of_neg]
      exact fun hK => by rw [beq_iff_eq] at hK; omega
    · next h0 =>
      rcases List.mem_cons.1 h with rfl | h
      · simp
      · obtain ⟨h1, h2, h3⟩ := assignCodes_mem h
        rw [ih (by simpa using hls) h, show c.sym - i = (c.sym - (i + 1)) + 1 by omega, List.take_succ_cons, List.countP_cons]
        by_cases hc : L = c.len
        · subst hc
          rw [List.getD_eq_getElem?_getD, List.getElem?_set_self hL]
          simp; omega
        · rw [List.getD_eq_getElem?_getD, List.getElem?_set_ne hc]
          simp [hc]

theorem take_countP_lt {ls : List Nat} {k L : Nat} (h : ls[k]? = some L) : (ls.take k).countP (· == L) < ls.countP (· == L) := by
  obtain ⟨hk, h⟩ := List.getElem?_eq_some_iff.1 h
  conv => rhs; rw [← List.take_append_drop k ls, List.countP_append, List.drop_eq_getElem_cons hk, h]
  simp

theorem take_countP_strict {ls : List Nat} {j k L : Nat} (hjk : j < k) (h : ls[j]? = some L) : (ls.take j).countP (· == L) < (ls.take k).countP (· == L) := by
  have hj : (ls.take k)[j]? = some L := by rw [List.getElem?_take_of_lt hjk]; exact h
  have := take_countP_lt hj
  rwa [List.take_take, Nat.min_eq_left (by omega)] at this

/-- Each code's place on the scale of 15-bit codes: the codes of one length lie between the weights of the shorter lengths and of the
lengths up to it. -/
theorem code_interval {lengths : List Nat} {t : CodeTable} (h : buildCodes lengths = .ok t) {c : Code} (hc : c ∈ t.codes) :
    1 ≤ c.len ∧ c.len ≤ 15 ∧ lengths[c.sym]? = some c.len
      ∧ c.val = firstCode lengths c.len + (lengths.take c.sym).countP (· == c.len)
      ∧ kraftBelow lengths c.len ≤ c.val * 2 ^ (15 - c.len) ∧ (c.val + 1) * 2 ^ (15 - c.len) ≤ kraftBelow lengths (c.len + 1) := by
  obtain ⟨h1, h2, rfl⟩ := buildCodes_ok h
  obtain ⟨-, hs, hp⟩ := assignCodes_mem hc
  rw [Nat.sub_zero] at hs
  have hl := h1 _ (List.mem_of_getElem? hs)
  have hv := assignCodes_val (fun L hL => by rw [firstCodes, firstCodesFrom_length]; exact Nat.lt_succ_of_le (h1 L hL)) hc
  rw [firstCodes_getD _ hl, Nat.sub_zero] at hv
  have hlt := take_countP_lt hs
  refine ⟨hp, hl, hs, hv, ?_, ?_⟩
  · rw [← firstCode_scaled _ hl]; exact Nat.mul_le_mul_right _ (by omega)
  · rw [kraftBelow, ← firstCode_scaled _ hl, ← Nat.add_mul]
    refine Nat.mul_le_mul_right _ ?_
    rw [lengthCount, if_neg (by omega)]; omega

/-- A prefix of a code's bits is the code's leading bits. -/
theorem codeBits_prefix {m n v w : Nat} (h : codeBits v m <+: codeBits w n) : m ≤ n ∧ (v < 2 ^ m → w < 2 ^ n → w / 2 ^ (n - m) = v) := by
  have hlen : ∀ x k, (codeBits x k).length = k := by
    intro x k; induction k with
    | zero => rfl
    | succ k ih => rw [codeBits, List.length_cons, ih]
  have hmn : m ≤ n := by have := h.length_le; rwa [hlen, hlen] at this
  refine ⟨hmn, fun hv hw => ?_⟩
  have hget : ∀ x k j, j < k → (codeBits x k)[j]? = some (x.testBit (k - 1 - j)) := by
    intro x k; induction k with
    | zero => intro j hj; omega
    | succ k ih =>
      intro j hj
      cases j with
      | zero => simp [codeBits]
      | succ j => rw [codeBits, List.getElem?_cons_succ, ih j (by omega)]; congr 2; omega
  apply Nat.eq_of_testBit_eq
  intro i
  rw [Nat.testBit_div_two_pow]
  by_cases hi : i < m
  · obtain ⟨l, hl⟩ := h
    have := hget v m (m - 1 - i) (by omega)
    have h2 := hget w n (m - 1 - i) (by omega)
    rw [← hl, List.getElem?_append_left (by rw [hlen]; omega), this] at h2
    simp only [Option.some.injEq] at h2
    rw [show m - 1 - (m - 1 - i) = i by omega] at h2
    rw [h2]; congr 1; omega
  · rw [Nat.testBit_lt_two_pow (Nat.lt_of_lt_of_le hv (Nat.pow_le_pow_right (by decide) (by omega))),
      Nat.testBit_lt_two_pow (Nat.lt_of_lt_of_le hw (Nat.pow_le_pow_right (by decide) (by omega)))]

end Sys2Proof.Machine
end

