-- ==== Sys2Proof/Laws/Invariants.lean ====
section
/-! SUPPORT. The invariant, operation by operation: `CoreOk` is what every operation keeps, and each operation has one lemma that says so. -/

namespace Sys2Proof.Machine

open Sys2Proof


/-- The part of the invariant that every operation keeps, taken alone. -/
structure CoreOk (s : State) : Prop where
  cursor : CursorOk s
  window : WindowOk s.win
  litlen : TableOk 288 s.llN s.llLen
  dist : TableOk 32 s.dN s.dLen
  copy : CopyOk s
  scratch : ScratchOk s.scr
  registers : RegistersOk s

theorem inv_iff (s : State) : Inv s ↔ CoreOk s ∧ PhaseOk s :=
  ⟨fun ⟨a, b, c, d, e, f, g, h⟩ => ⟨⟨a, b, c, d, e, f, h⟩, g⟩, fun ⟨⟨a, b, c, d, e, f, h⟩, g⟩ => ⟨a, b, c, d, e, f, g, h⟩⟩

theorem StreamError.code_range (e : StreamError) : 1 ≤ e.code ∧ e.code ≤ 5 := by cases e <;> decide

theorem CoreOk.latch {s : State} (h : CoreOk s) (e : StreamError) : CoreOk (s.latch e) where
  cursor := h.cursor
  window := h.window
  litlen := h.litlen
  dist := h.dist
  copy := h.copy
  scratch := h.scratch
  registers := ⟨h.registers.1, h.registers.2.1, fun c hc => by
    simp only [latch_resp, Resp.error.injEq] at hc
    subst hc; exact e.code_range⟩

theorem CoreOk.reads {s t : State} (h : CoreOk s) (hr : Reads s t) : CoreOk t := by
  have hc := hr.cursor h.cursor
  have hs := hr.same
  constructor
  · exact hc
  all_goals rw [hs]
  · exact h.window
  · exact h.litlen
  · exact h.dist
  · exact h.copy
  · exact h.scratch
  · exact h.registers

abbrev Keeps {α : Type} (P : State → Prop) (r : Res α) : Prop := r.Sat True (fun _ t => P t) (fun _ t => P t)

theorem Keeps.bind {α β : Type} {P : State → Prop} {r : Res α} {k : α → State → Res β} (h : Keeps P r)
    (hk : ∀ a s, P s → Keeps P (k a s)) : Keeps P (r.bind k) := Res.Sat.bind h hk

theorem Sat.mono_stop {α : Type} {stop : Prop} {Q : α → State → Prop} {E : StreamError → State → Prop} {r : Res α} (h : r.Sat False Q E) : r.Sat stop Q E := by
  cases r with
  | ok a s => exact h
  | raised e s => exact h
  | fault f => exact h.elim
  | refused f => exact h.elim

theorem keeps_readBit {s : State} (h : CoreOk s) : Keeps CoreOk (readBit s) :=
  Sat.mono_stop ((readBit_reads s).weaken (fun _ _ h' => h.reads h'.1) fun _ _ h' => h'.2 ▸ h)

theorem keeps_readBits {n : Nat} (hn : n ≤ 24) {s : State} (h : CoreOk s) : Keeps CoreOk (readBits n s) :=
  Sat.mono_stop ((readBits_reads hn s).weaken (fun _ _ h' => h.reads h'.1) fun _ _ h' => h.reads h'.2)

theorem keeps_readByte {s : State} (h : CoreOk s) : Keeps CoreOk (readAlignedByte s) :=
  Sat.mono_stop ((readAlignedByte_reads s).weaken (fun _ _ h' => h.reads h'.2.2.1) fun _ _ h' => h.reads h'.2.2.2)

theorem keeps_readBytes (n : Nat) {s : State} (h : CoreOk s) : Keeps CoreOk (readBytes n s) :=
  Sat.mono_stop ((readBytes_reads n s).weaken (fun _ _ h' => h.reads h') fun _ _ h' => h.reads h'.2)

theorem keeps_resolve (t : CodeTable) {s : State} (h : CoreOk s) : Keeps CoreOk (resolve t s) :=
  Sat.mono_stop ((resolve_reads t s).weaken (fun _ _ h' => h.reads h'.2.1) fun _ _ h' => h.reads h'.2)

theorem keeps_withTable {α : Type} {P : State → Prop} {ls : List Nat} {s : State} {k : CodeTable → Res α} (h : P s)
    (hk : ∀ t, buildCodes ls = .ok t → Keeps P (k t)) : Keeps P (withTable ls s k) := by
  cases hb : buildCodes ls with
  | error e => rw [withTable_error hb]; exact h
  | ok t => rw [withTable_ok hb]; exact hk t hb

theorem core_put {s : State} (h : CoreOk s) (b : Byte) : CoreOk (s.putByte b) :=
  ⟨h.cursor, put_windowOk b h.window, h.litlen, h.dist, h.copy, h.scratch, h.registers⟩

theorem core_emit {s : State} (h : CoreOk s) (b : Byte) : CoreOk (s.emit b) :=
  ⟨h.cursor, h.window, h.litlen, h.dist, h.copy, h.scratch, by
    refine ⟨?_, h.registers.2⟩
    simp only [emit_outCount, emit_out, h.registers.1, List.length_append, List.length_singleton]
    exact (BitVec.ofNat_add ..).symm⟩

theorem keeps_winPut {s : State} (h : CoreOk s) (b : Byte) : Keeps CoreOk (winPut b s) := by
  unfold winPut; split
  · exact core_put h b
  · trivial

theorem keeps_winCopy {s : State} (h : CoreOk s) (d : Nat) : Keeps CoreOk (winCopy d s) := by
  rcases winCopy_cases d s with ⟨-, hr⟩ | ⟨-, -, hr⟩ | ⟨-, -, -, hr⟩ | ⟨b, -, -, -, hr⟩ <;> rw [hr]
  · trivial
  · exact h
  · trivial
  · exact core_put h b

theorem keeps_putAndEmit {s : State} (h : CoreOk s) (b : Byte) : Keeps CoreOk (putAndEmit b s) :=
  Keeps.bind (keeps_winPut h b) fun _ _ h' => core_emit h' b

theorem keeps_distSymbol {base ext : Nat} (hb : 1 ≤ base) (he : base + 2 ^ ext ≤ 32769) (hx : ext ≤ 24) {s : State} (h : CoreOk s) :
    Keeps CoreOk (distSymbol base ext s) := by
  refine Res.Sat.bind (Q := fun v t => CoreOk t ∧ v < 2 ^ ext) (Sat.mono_stop ((readBits_reads hx s).weaken (fun _ _ h' => ⟨h.reads h'.1, h'.2.2⟩) fun _ _ h' => h.reads h'.2)) ?_
  intro e s1 h1
  exact ⟨h1.1.cursor, h1.1.window, h1.1.litlen, h1.1.dist, ⟨h1.1.scratch.2.2.2.2.2, by show base + e ≤ 32768; omega, fun _ => by show 1 ≤ base + e; omega⟩, h1.1.scratch, h1.1.registers⟩

theorem keeps_distElem (ds : Nat) {s : State} (h : CoreOk s) : Keeps CoreOk (distElem ds s) := by
  unfold distElem
  split
  · next elem he =>
    have hm := List.mem_of_getElem? he
    simp only [distElems, List.mem_cons, List.not_mem_nil, or_false] at hm
    rcases hm with rfl | rfl | rfl | rfl | rfl | rfl | rfl | rfl | rfl | rfl | rfl | rfl | rfl | rfl | rfl | rfl | rfl | rfl | rfl | rfl | rfl | rfl | rfl | rfl | rfl | rfl | rfl | rfl | rfl | rfl <;>
      exact keeps_distSymbol (by decide) (by decide) (by decide) h
  · exact h

theorem keeps_lenSymbol {base ext : Nat} (he : base + 2 ^ ext ≤ 259) (hx : ext ≤ 24) {s : State} (h : CoreOk s) :
    Keeps CoreOk (lenSymbol base ext s) := by
  refine Res.Sat.bind (Q := fun v t => CoreOk t ∧ v < 2 ^ ext) (Sat.mono_stop ((readBits_reads hx s).weaken (fun _ _ h' => ⟨h.reads h'.1, h'.2.2⟩) fun _ _ h' => h.reads h'.2)) ?_
  intro e s1 h1
  have h2 : CoreOk { s1 with scr := { s1.scr with len := base + e } } :=
    ⟨h1.1.cursor, h1.1.window, h1.1.litlen, h1.1.dist, h1.1.copy, by
      obtain ⟨a, b, c, d, f, g⟩ := h1.1.scratch
      exact ⟨a, b, c, d, f, by show base + e ≤ 258; omega⟩, h1.1.registers⟩
  exact Keeps.bind (keeps_withTable h2 fun t _ => keeps_resolve t h2) fun ds s2 h3 => keeps_distElem ds h3

theorem keeps_lenElem {elem : State → Res Unit} (hm : elem ∈ lenElems) {s : State} (h : CoreOk s) : Keeps CoreOk (elem s) := by
    simp only [lenElems, List.mem_cons, List.not_mem_nil, or_false] at hm
    rcases hm with rfl | rfl | rfl | rfl | rfl | rfl | rfl | rfl | rfl | rfl | rfl | rfl | rfl | rfl | rfl | rfl | rfl | rfl | rfl | rfl | rfl | rfl | rfl | rfl | rfl | rfl | rfl | rfl | rfl <;>
      exact keeps_lenSymbol (by decide) (by decide) h

theorem core_blockEnd {s : State} (h : CoreOk s) : CoreOk s.blockEnd := ⟨h.cursor, h.window, h.litlen, h.dist, h.copy, h.scratch, h.registers⟩

theorem keeps_litlenElem (sym : Nat) {s : State} (h : CoreOk s) : Keeps CoreOk (litlenElem sym s) := by
  unfold litlenElem
  split
  · exact Keeps.bind (keeps_putAndEmit h _) fun _ _ h' => h'
  · split
    · exact core_blockEnd h
    · split
      · next elem he => exact Keeps.bind (keeps_lenElem (List.mem_of_getElem? he) h) fun _ _ h' => h'
      · exact h

theorem keeps_copyStep {s : State} (h : CoreOk s) : Keeps CoreOk (copyStep s) := by
  refine Keeps.bind (keeps_winCopy h _) fun b s1 h1 => ?_
  have h2 := core_emit h1 b
  exact ⟨h2.cursor, h2.window, h2.litlen, h2.dist, ⟨by have := h2.copy.1; show _ - 1 ≤ 258; omega, h2.copy.2.1, fun hp => h2.copy.2.2 (by
    have : 0 < (s1.emit b).pendLen - 1 := hp
    omega)⟩, h2.scratch, h2.registers⟩

theorem keeps_huffStep {s : State} (h : CoreOk s) : Keeps CoreOk (huffStep s) := by
  unfold huffStep
  split
  · exact Keeps.bind (keeps_copyStep h) fun _ _ h' => h'
  · exact Keeps.bind (keeps_withTable h fun t _ => keeps_resolve t h) fun _ _ h' => keeps_litlenElem _ h'

/-! blocks -/
theorem keeps_storedHdr (len nlen : BitVec 16) {s : State} (h : CoreOk s) : Keeps CoreOk (elemStoredHdr len nlen s) := by
  unfold elemStoredHdr; split
  · exact ⟨h.cursor, h.window, h.litlen, h.dist, h.copy, h.scratch, h.registers⟩
  · exact h

theorem core_align {s : State} (h : CoreOk s) : CoreOk s.align := h.reads (Reads.align s)

theorem keeps_readField16 {s : State} (h : CoreOk s) : Keeps CoreOk (readField16 s) :=
  Keeps.bind (keeps_readBits (by decide) h) fun _ _ h' => h'

theorem keeps_storedHeader {s : State} (h : CoreOk s) : Keeps CoreOk (storedHeader s) :=
  Keeps.bind (keeps_readField16 (core_align h)) fun len _ h1 => Keeps.bind (keeps_readField16 h1) fun nlen _ h2 => keeps_storedHdr len nlen h2

theorem keeps_storedByteElem (b : Byte) {s : State} (h : CoreOk s) : Keeps CoreOk (elemStoredByte b s) := by
  unfold elemStoredByte; split
  · trivial
  · exact Keeps.bind (keeps_putAndEmit h b) fun _ _ h' => ⟨h'.cursor, h'.window, h'.litlen, h'.dist, h'.copy, h'.scratch, h'.registers⟩

theorem keeps_storedByte {s : State} (h : CoreOk s) : Keeps CoreOk (storedByte s) :=
  Keeps.bind (keeps_readByte h) fun b _ h1 => Keeps.bind (keeps_storedByteElem b h1) fun _ _ h2 => h2

theorem tableOk_install {cap : Nat} {lens : List Nat} (hl : lens.length ≤ cap) {t : CodeTable} (hb : buildCodes lens = .ok t) :
    TableOk cap lens.length (padTo cap lens) := by
  refine ⟨?_, hl, ?_, ?_, ?_⟩
  · simp [padTo]; omega
  · intro L hL
    rcases List.mem_append.1 hL with h | h
    · exact (buildCodes_ok hb).1 L h
    · rw [(List.mem_replicate.1 h).2]; exact Nat.zero_le _
  · intro L hL
    rw [padTo, List.drop_left] at hL
    exact (List.mem_replicate.1 hL).2
  · rw [padTo, List.take_left, hb]; rfl

theorem core_install {s : State} (h : CoreOk s) {ll d : List Nat} (h1 : ll.length ≤ 288) (h2 : d.length ≤ 32) {t u : CodeTable}
    (h3 : buildCodes ll = .ok t) (h4 : buildCodes d = .ok u) : CoreOk (s.installTables ll d) :=
  ⟨h.cursor, h.window, tableOk_install h1 h3, tableOk_install h2 h4, h.copy, h.scratch, h.registers⟩

theorem keeps_fixedInstall {s : State} (h : CoreOk s) : Keeps CoreOk (fixedInstall s) := by
  have a := fixed_litlen_builds
  have b := fixed_dist_builds
  cases h3 : buildCodes fixedLitlenLengths with
  | error e => rw [h3] at a; cases a
  | ok t =>
    cases h4 : buildCodes fixedDistLengths with
    | error e => rw [h4] at b; cases b
    | ok u =>
      have := core_install h (by simp only [fixedLitlenLengths, List.length_append, List.length_replicate]; decide)
        (by simp only [fixedDistLengths, List.length_replicate]; decide) h3 h4
      exact ⟨this.cursor, this.window, this.litlen, this.dist, this.copy, this.scratch, this.registers⟩

theorem core_seq {s : State} (h : CoreOk s) {seq : List Nat} (hs : ∀ L ∈ seq, L ≤ 15) : CoreOk { s with scr := { s.scr with seq := seq } } :=
  ⟨h.cursor, h.window, h.litlen, h.dist, h.copy, by obtain ⟨a, b, c, d, f, g⟩ := h.scratch; exact ⟨a, b, c, d, hs, g⟩, h.registers⟩

theorem keeps_appendRepeat {l : Nat} (hl : l ≤ 15) (r : Nat) {s : State} (h : CoreOk s) : Keeps CoreOk (appendRepeat l r s) := by
  unfold appendRepeat; split
  · exact h
  · refine core_seq h fun L hL => ?_
    rcases List.mem_append.1 hL with h' | h'
    · exact h.scratch.2.2.2.2.1 L h'
    · rw [(List.mem_replicate.1 h').2]; exact hl

theorem keeps_clElem (sym : Nat) {s : State} (h : CoreOk s) : Keeps CoreOk (clElem sym s) := by
  have h1 : ∀ l : BitVec 4, Keeps CoreOk (elemClLen l s) := fun l => core_seq h fun L hL => by
    rcases List.mem_append.1 hL with h' | h'
    · exact h.scratch.2.2.2.2.1 L h'
    · rw [List.mem_singleton.1 h']; have := l.isLt; omega
  have h2 : Keeps CoreOk (elemClRep16 s) := by
    unfold elemClRep16; split
    · exact h
    · next l hl => exact Keeps.bind (keeps_readBits (by decide) h) fun _ _ h' => keeps_appendRepeat (h.scratch.2.2.2.2.1 l (List.mem_of_getLast? hl)) _ h'
  unfold clElem
  split
  · exact h1 _
  · split
    · exact h2
    · split
      · exact Keeps.bind (keeps_readBits (by decide) h) fun _ _ h' => keeps_appendRepeat (by decide) _ h'
      · split
        · exact Keeps.bind (keeps_readBits (by decide) h) fun _ _ h' => keeps_appendRepeat (by decide) _ h'
        · trivial

theorem keeps_readClLens (ks : List Nat) {s : State} (h : CoreOk s) : Keeps CoreOk (readClLens ks s) := by
  induction ks generalizing s with
  | nil => exact h
  | cons k ks ih =>
    refine Res.Sat.bind (Q := fun v t => CoreOk t ∧ v < 8) (Sat.mono_stop ((readBits_reads (by decide) s).weaken (fun _ _ h' => ⟨h.reads h'.1, h'.2.2⟩) fun _ _ h' => h.reads h'.2)) ?_
    intro v s1 h1
    refine ih ⟨h1.1.cursor, h1.1.window, h1.1.litlen, h1.1.dist, h1.1.copy, ?_, h1.1.registers⟩
    obtain ⟨a, b, c, d, f, g⟩ := h1.1.scratch
    refine ⟨a, b, by simpa using c, fun L hL => ?_, f, g⟩
    rcases List.mem_or_eq_of_mem_set hL with h' | h'
    · exact d L h'
    · omega

theorem keeps_readLengths (t : CodeTable) (n : Nat) {s : State} (h : CoreOk s) : Keeps CoreOk (readLengths t n s) := by
  induction n generalizing s with
  | zero => trivial
  | succ n ih =>
    unfold readLengths; split
    · exact Keeps.bind (keeps_resolve t h) fun _ _ h1 => Keeps.bind (keeps_clElem _ h1) fun _ _ h2 => ih h2
    · exact h

theorem keeps_installDynamic {ll d : List Nat} (h1 : ll.length ≤ 288) (h2 : d.length ≤ 32) {s : State} (h : CoreOk s) : Keeps CoreOk (installDynamic ll d s) :=
  keeps_withTable h fun _ h3 => keeps_withTable h fun _ h4 => by
    have := core_install h h1 h2 h3 h4
    exact ⟨this.cursor, this.window, this.litlen, this.dist, this.copy, this.scratch, this.registers⟩

theorem keeps_dynHdr (hlit hdist : BitVec 5) (hclen : BitVec 4) {s : State} (h : CoreOk s) : Keeps CoreOk (elemDynHdr hlit hdist hclen s) := by
  unfold elemDynHdr
  simp only
  split
  · exact h
  · next hn =>
    simp only [Config.litLenSymbols, Config.distSymbols, not_or, Nat.not_lt] at hn
    have h0 : CoreOk (s.beginDynamic (hlit.toNat + 257) (hdist.toNat + 1)) :=
      ⟨h.cursor, h.window, h.litlen, h.dist, h.copy, by
        obtain ⟨a, b, c, d, f, g⟩ := h.scratch
        refine ⟨hn.1, hn.2, by simp, fun L hL => ?_, by simp, g⟩
        simp only [beginDynamic_scr] at hL
        rw [(List.mem_replicate.1 hL).2]; decide, h.registers⟩
    refine Keeps.bind (keeps_readClLens _ h0) fun _ s1 h1 => keeps_withTable h1 fun t _ => Keeps.bind (keeps_readLengths t _ h1) fun _ s2 h2 => keeps_installDynamic ?_ ?_ h2
    · rw [List.length_take]; omega
    · rw [List.length_take]; omega

theorem core_setLast {s : State} (h : CoreOk s) (b : Bool) : CoreOk (s.setLast b) := ⟨h.cursor, h.window, h.litlen, h.dist, h.copy, h.scratch, h.registers⟩

theorem keeps_dynamicHeader {s : State} (h : CoreOk s) : Keeps CoreOk (dynamicHeader s) :=
  Keeps.bind (keeps_readBits (by decide) h) fun _ _ h1 => Keeps.bind (keeps_readBits (by decide) h1) fun _ _ h2 => Keeps.bind (keeps_readBits (by decide) h2) fun _ _ h3 => keeps_dynHdr _ _ _ h3

theorem keeps_blockElem (f : Bool) (t : Nat) {s : State} (h : CoreOk s) : Keeps CoreOk (blockElem f t s) := by
  have h' := core_setLast h f
  unfold blockElem; split
  · exact keeps_storedHeader h'
  · exact keeps_fixedInstall h'
  · exact keeps_dynamicHeader h'
  · exact h'

theorem keeps_blockHeader {s : State} (h : CoreOk s) : Keeps CoreOk (blockHeader s) :=
  Keeps.bind (keeps_readBit h) fun _ _ h1 => Keeps.bind (keeps_readBits (by decide) (core_setLast h1 _)) fun _ _ h2 => keeps_blockElem _ _ h2

/-! frames -/
theorem windowOk_create {w : Window} (h : WindowOk w) {m : Nat} (h1 : 1 ≤ m) (h2 : m ≤ Config.windowCapacity) :
    WindowOk { w with acq := true, maxDist := m, wptr := 0, filled := 0 } :=
  ⟨(by decide : 0 < Config.windowCapacity), Nat.zero_le _, h1, h2, h.2.2.2.2.1, fun d h3 h4 => by simp only at h4; omega⟩

theorem core_create {s : State} (h : CoreOk s) {m : Nat} (h1 : 1 ≤ m) (h2 : m ≤ Config.windowCapacity) : CoreOk (s.createWindow m) :=
  ⟨h.cursor, windowOk_create h.window h1 h2, h.litlen, h.dist, h.copy, h.scratch, h.registers⟩

theorem keeps_zlibHdr (hd : BitVec 16) {s : State} (h : CoreOk s) : Keeps CoreOk (elemZlibHdr hd s) := by
  unfold elemZlibHdr; split
  · next hk =>
    simp only [zlibHeaderOk, Bool.and_eq_true, decide_eq_true_eq] at hk
    refine core_create h ?_ ?_
    · unfold zlibWindow; rw [Nat.shiftLeft_eq]; exact Nat.mul_pos (by decide) (Nat.two_pow_pos _)
    · unfold zlibWindow; rw [Nat.shiftLeft_eq, Nat.one_mul]
      exact Nat.pow_le_pow_right (by decide) (show _ ≤ 15 by omega)
  · exact h

theorem keeps_skipBytes (n : Nat) {s : State} (h : CoreOk s) : Keeps CoreOk (skipBytes n s) := by
  induction n generalizing s with
  | zero => exact h
  | succ n ih => exact Keeps.bind (keeps_readByte h) fun _ _ h1 => ih h1

theorem keeps_skipString (n : Nat) {s : State} (h : CoreOk s) : Keeps CoreOk (skipString n s) := by
  induction n generalizing s with
  | zero => trivial
  | succ n ih => exact Keeps.bind (keeps_readByte h) fun _ _ h1 => by split; exact h1; exact ih h1

theorem keeps_optional {b : Bool} {f : State → Res Unit} (hf : ∀ s, CoreOk s → Keeps CoreOk (f s)) {s : State} (h : CoreOk s) : Keeps CoreOk (optionalField b f s) := by
  unfold optionalField; split
  · exact hf s h
  · exact h

theorem keeps_gzipFields (flg : Byte) {s : State} (h : CoreOk s) : Keeps CoreOk (gzipFields flg s) :=
  Keeps.bind (keeps_skipBytes 6 h) fun _ _ h1 => Keeps.bind (keeps_optional (fun _ h => Keeps.bind (keeps_readBytes 2 h) fun _ _ h' => keeps_skipBytes _ h') h1) fun _ _ h2 =>
    Keeps.bind (keeps_optional (fun _ h => keeps_skipString _ h) h2) fun _ _ h3 => Keeps.bind (keeps_optional (fun _ h => keeps_skipString _ h) h3) fun _ _ h4 => keeps_optional (fun _ h => keeps_skipBytes 2 h) h4

theorem keeps_gzipHdr (st : BitVec 32) {s : State} (h : CoreOk s) : Keeps CoreOk (elemGzipHdr st s) := by
  unfold elemGzipHdr; split
  · exact keeps_gzipFields _ h
  · exact h

theorem keeps_checkedByte (k : Nat) {s : State} (h : CoreOk s) : Keeps CoreOk (checkedByte k s) :=
  Keeps.bind (keeps_readByte h) fun _ _ h1 => by split <;> exact h1

theorem keeps_zlibTrl (a : Word) {s : State} (h : CoreOk s) : Keeps CoreOk (elemZlibTrl a s) := by
  unfold elemZlibTrl; split <;> exact ⟨h.cursor, h.window, h.litlen, h.dist, h.copy, h.scratch, h.registers⟩

theorem keeps_gzipTrl (a b : Word) {s : State} (h : CoreOk s) : Keeps CoreOk (elemGzipTrl a b s) := by
  unfold elemGzipTrl; split <;> exact ⟨h.cursor, h.window, h.litlen, h.dist, h.copy, h.scratch, h.registers⟩

theorem core_phase {s : State} (h : CoreOk s) (p : Phase) : CoreOk { s with phase := p } := ⟨h.cursor, h.window, h.litlen, h.dist, h.copy, h.scratch, h.registers⟩

theorem keeps_frameHeader {s : State} (h : CoreOk s) : Keeps CoreOk (frameHeader s) := by
  refine Keeps.bind ?_ fun _ _ h' => core_phase h' _
  unfold headerOf; split
  · exact h
  · exact Keeps.bind (keeps_readByte h) fun _ _ h1 => Keeps.bind (keeps_readByte h1) fun _ _ h2 => keeps_zlibHdr _ h2
  · exact Keeps.bind (keeps_checkedByte 0 h) fun _ _ h1 => Keeps.bind (keeps_checkedByte 1 h1) fun _ _ h2 => Keeps.bind (keeps_checkedByte 2 h2) fun _ _ h3 => Keeps.bind (keeps_checkedByte 3 h3) fun _ _ h4 => keeps_gzipHdr _ h4

theorem keeps_frameEnd {s : State} (h : CoreOk s) : Keeps CoreOk (frameEnd s) := by
  refine Keeps.bind ?_ fun _ _ h' => core_phase h' _
  have h1 : CoreOk s.enterTrailer := by have := core_align h; exact ⟨this.cursor, this.window, this.litlen, this.dist, this.copy, this.scratch, this.registers⟩
  unfold trailerOf; split
  · exact h
  · exact Keeps.bind (keeps_readBytes 4 h1) fun _ _ h2 => keeps_zlibTrl _ h2
  · exact Keeps.bind (keeps_readBytes 8 h1) fun _ _ h2 => keeps_gzipTrl _ _ h2

theorem keeps_producePass {s : State} (h : CoreOk s) : Keeps CoreOk (producePass s) := by
  unfold producePass; split
  · exact Keeps.bind (keeps_blockHeader h) fun _ _ h' => h'
  · split
    · exact core_blockEnd h
    · exact Keeps.bind (keeps_storedByte h) fun _ _ h' => h'
  · exact Keeps.bind (keeps_huffStep h) fun _ _ h' => by split <;> exact h'
  · exact Keeps.bind (keeps_huffStep h) fun _ _ h' => by split <;> exact h'
  · exact h
  · trivial
  · trivial

theorem keeps_produce (n : Nat) {s : State} (h : CoreOk s) : Keeps CoreOk (produce n s) := by
  induction n generalizing s with
  | zero => trivial
  | succ n ih => exact Keeps.bind (keeps_producePass h) fun _ _ h' => by split; exact h'; exact ih h'

theorem core_respond {s : State} (h : CoreOk s) {r : Resp} (hr : ∀ c, r = .error c → 1 ≤ c ∧ c ≤ 5) : CoreOk (s.respond r) :=
  ⟨h.cursor, h.window, h.litlen, h.dist, h.copy, h.scratch, h.registers.1, h.registers.2.1, hr⟩

theorem keeps_readBody {s : State} (h : CoreOk s) : Keeps CoreOk (readBody s) := by
  refine Keeps.bind ?_ fun _ s1 h1 => Keeps.bind (keeps_produce _ h1) fun r s2 h2 => ?_
  · unfold readHeader; split
    · exact keeps_frameHeader h
    · exact h
  · unfold readEnd; split
    · exact core_respond h2 (by intro c hc; cases hc)
    · exact Keeps.bind (keeps_frameEnd h2) fun _ _ h3 => core_respond h3 (by intro c hc; cases hc)
end Sys2Proof.Machine
end

