-- ==== Sys2Proof/Laws/FrameRules.lean ====
section
/-! SUPPORT. Frames, operation by operation: the fields each operation may write, and that it leaves every other one. -/

namespace Sys2Proof.Machine

open Sys2Proof


/-- The two states agree on every field outside `F`. -/
def Agree (F : List Field) (s t : State) : Prop := ∀ f : Field, f ∉ F → f.same s t

theorem Agree.refl (F : List Field) (s : State) : Agree F s s := fun f _ => by cases f <;> rfl

theorem Field.same.trans {f : Field} {s t u : State} (h : f.same s t) (h' : f.same t u) : f.same s u := by
  cases f <;> exact Eq.trans h' h

theorem Agree.trans {F : List Field} {s t u : State} (h : Agree F s t) (h' : Agree F t u) : Agree F s u :=
  fun f hf => (h f hf).trans (h' f hf)

theorem Agree.mono {F G : List Field} {s t : State} (h : Agree F s t) (hs : F ⊆ G) : Agree G s t :=
  fun f hf => h f fun hm => hf (hs hm)

theorem Reads.agree {s t : State} (h : Reads s t) : Agree [.bc] s t := by
  intro f hf
  rw [h.same]
  cases f <;> first | rfl | exact absurd (by decide) hf

/-- What an operation may write. -/
abbrev Frames {α : Type} (F : List Field) (s : State) (r : Res α) : Prop :=
  r.Sat True (fun _ t => Agree F s t) (fun _ t => Agree F s t)

theorem Frames.bind {α β : Type} {F : List Field} {s : State} {r : Res α} {k : α → State → Res β} (h : Frames F s r)
    (hk : ∀ a t, Frames F t (k a t)) : Frames F s (r.bind k) :=
  Res.Sat.bind h fun a t ht => (hk a t).weaken (fun _ _ h' => ht.trans h') fun _ _ h' => ht.trans h'

theorem Frames.mono {α : Type} {F G : List Field} {s : State} {r : Res α} (h : Frames F s r) (hs : F ⊆ G) : Frames G s r :=
  h.weaken (fun _ _ h' => h'.mono hs) fun _ _ h' => h'.mono hs

/-- After a first operation that wrote within `F`. -/
theorem Frames.after {α : Type} {F : List Field} {s t : State} {r : Res α} (ha : Agree F s t) (h : Frames F t r) : Frames F s r :=
  h.weaken (fun _ _ h' => ha.trans h') fun _ _ h' => ha.trans h'

theorem Frames.self {α : Type} {F : List Field} {s : State} (a : α) : Frames F s (.ok a s) := Agree.refl F s
theorem Frames.raise {α : Type} {F : List Field} {s : State} (e : StreamError) : Frames F s (.raised e s : Res α) := Agree.refl F s

theorem frames_readBit (s : State) : Frames [.bc] s (readBit s) :=
  Sat.mono_stop ((readBit_reads s).weaken (fun _ _ h => h.1.agree) fun _ _ h => h.2 ▸ Agree.refl _ _)

theorem frames_readBits (n : Nat) (s : State) : Frames [.bc] s (readBits n s) := by
  by_cases h : n ≤ 24
  · exact Sat.mono_stop ((readBits_reads h s).weaken (fun _ _ h => h.1.agree) fun _ _ h => h.2.agree)
  · rw [readBits, if_pos (by simp only [Config.maxReadBits]; omega)]; trivial

theorem frames_readByte (s : State) : Frames [.bc] s (readAlignedByte s) :=
  Sat.mono_stop ((readAlignedByte_reads s).weaken (fun _ _ h => h.2.2.1.agree) fun _ _ h => h.2.2.2.agree)

theorem frames_readBytes (n : Nat) (s : State) : Frames [.bc] s (readBytes n s) :=
  Sat.mono_stop ((readBytes_reads n s).weaken (fun _ _ h => h.agree) fun _ _ h => h.2.agree)

theorem frames_resolve (t : CodeTable) (s : State) : Frames [.bc] s (resolve t s) :=
  Sat.mono_stop ((resolve_reads t s).weaken (fun _ _ h => h.2.1.agree) fun _ _ h => h.2.agree)

theorem frames_withTable {α : Type} {F : List Field} {ls : List Nat} {s : State} {k : CodeTable → Res α}
    (hk : ∀ t, Frames F s (k t)) : Frames F s (withTable ls s k) := by
  cases hb : buildCodes ls with
  | error e => rw [withTable_error hb]; exact Agree.refl _ _
  | ok t => rw [withTable_ok hb]; exact hk t

theorem agree_put (b : Byte) (s : State) : Agree putFields s (s.putByte b) := by
  intro f hf; cases f <;> first | rfl | exact absurd (by decide) hf

theorem agree_emit (b : Byte) (s : State) : Agree emitFields s (s.emit b) := by
  intro f hf; cases f <;> first | rfl | exact absurd (by decide) hf

theorem frames_winPut (b : Byte) (s : State) : Frames putFields s (winPut b s) := by
  unfold winPut; split
  · exact agree_put b s
  · trivial

theorem frames_winCopy (d : Nat) (s : State) : Frames putFields s (winCopy d s) := by
  rcases winCopy_cases d s with ⟨-, hr⟩ | ⟨-, -, hr⟩ | ⟨-, -, -, hr⟩ | ⟨b, -, -, -, hr⟩ <;> rw [hr]
  · trivial
  · exact Agree.refl _ _
  · trivial
  · exact agree_put b s

theorem frames_putAndEmit (b : Byte) (s : State) : Frames (putFields ++ emitFields) s (putAndEmit b s) :=
  Frames.bind ((frames_winPut b s).mono (List.subset_append_left _ _)) fun _ t => (agree_emit b t).mono (List.subset_append_right _ _)

theorem frames_distSymbol (base ext : Nat) (s : State) : Frames [.bc, .pendLen, .pendDist] s (distSymbol base ext s) :=
  Frames.bind ((frames_readBits ext s).mono (by decide)) fun _ t f hf => by cases f <;> first | rfl | exact absurd (by decide) hf

theorem frames_distElem (ds : Nat) (s : State) : Frames [.bc, .pendLen, .pendDist] s (distElem ds s) := by
  unfold distElem
  split
  · next elem he =>
    have hm := List.mem_of_getElem? he
    simp only [distElems, List.mem_cons, List.not_mem_nil, or_false] at hm
    rcases hm with rfl | rfl | rfl | rfl | rfl | rfl | rfl | rfl | rfl | rfl | rfl | rfl | rfl | rfl | rfl | rfl | rfl | rfl | rfl | rfl | rfl | rfl | rfl | rfl | rfl | rfl | rfl | rfl | rfl | rfl <;>
      exact frames_distSymbol _ _ s
  · exact Frames.raise _

theorem frames_lenSymbol (base ext : Nat) (s : State) : Frames (.bc :: pairFields) s (lenSymbol base ext s) := by
  refine Frames.bind ((frames_readBits ext s).mono (by decide)) fun e t => ?_
  refine Frames.after (t := { t with scr := { t.scr with len := base + e } }) (fun f hf => by cases f <;> first | rfl | exact absurd (by decide) hf) ?_
  exact Frames.bind (frames_withTable fun tab => (frames_resolve tab _).mono (by decide)) fun ds u => (frames_distElem ds u).mono (by decide)

theorem frames_lenElem {elem : State → Res Unit} (hm : elem ∈ lenElems) (s : State) : Frames (.bc :: pairFields) s (elem s) := by
    simp only [lenElems, List.mem_cons, List.not_mem_nil, or_false] at hm
    rcases hm with rfl | rfl | rfl | rfl | rfl | rfl | rfl | rfl | rfl | rfl | rfl | rfl | rfl | rfl | rfl | rfl | rfl | rfl | rfl | rfl | rfl | rfl | rfl | rfl | rfl | rfl | rfl | rfl | rfl <;>
      exact frames_lenSymbol _ _ s

theorem agree_blockEnd (s : State) : Agree [.eng] s s.blockEnd := by
  intro f hf; cases f <;> first | rfl | exact absurd (by decide) hf

/-- What a Huffman step may write. -/
def huffFields : List Field := .bc :: .eng :: (putFields ++ emitFields ++ pairFields)

theorem frames_huffStep (s : State) : Frames huffFields s (huffStep s) := by
  unfold huffStep
  split
  · refine Frames.bind (Frames.bind ((frames_winCopy _ s).mono (by decide)) fun b t => ?_) fun _ _ => Frames.self _
    exact ((agree_emit b t).mono (by decide)).trans fun f hf => by cases f <;> first | rfl | exact absurd (by decide) hf
  · refine Frames.bind (frames_withTable fun tab => (frames_resolve tab s).mono (by decide)) fun sym t => ?_
    unfold litlenElem
    split
    · exact Frames.bind ((frames_putAndEmit _ t).mono (by decide)) fun _ _ => Frames.self _
    · split
      · exact (agree_blockEnd t).mono (by decide)
      · split
        · next elem he => exact Frames.bind ((frames_lenElem (List.mem_of_getElem? he) t).mono (by decide)) fun _ _ => Frames.self _
        · exact Frames.raise _

theorem frames_storedHdr (len nlen : BitVec 16) (s : State) : Frames [.storedRem, .eng] s (elemStoredHdr len nlen s) := by
  unfold elemStoredHdr; split
  · intro f hf; cases f <;> first | rfl | exact absurd (by decide) hf
  · exact Frames.raise _

theorem frames_storedHeader (s : State) : Frames [.bc, .storedRem, .eng] s (storedHeader s) := by
  have h16 : ∀ t, Frames [.bc, .storedRem, .eng] t (readField16 t) := fun t =>
    Frames.bind ((frames_readBits 16 t).mono (by decide)) fun _ _ => Frames.self _
  exact Frames.after ((Reads.align s).agree.mono (by decide)) <| Frames.bind (h16 _) fun len t => Frames.bind (h16 t) fun nlen u => (frames_storedHdr len nlen u).mono (by decide)

theorem frames_storedByteElem (b : Byte) (s : State) : Frames (putFields ++ emitFields ++ [.storedRem]) s (elemStoredByte b s) := by
  unfold elemStoredByte; split
  · trivial
  · exact Frames.bind ((frames_putAndEmit b s).mono (by decide)) fun _ t f hf => by cases f <;> first | rfl | exact absurd (by decide) hf

theorem frames_storedByte (s : State) : Frames (.bc :: (putFields ++ emitFields ++ [.storedRem])) s (storedByte s) :=
  Frames.bind ((frames_readByte s).mono (by decide)) fun b t => Frames.bind ((frames_storedByteElem b t).mono (by decide)) fun _ _ => Frames.self _

theorem agree_install (ll d : List Nat) (s : State) : Agree [.llLen, .llN, .dLen, .dN] s (s.installTables ll d) := by
  intro f hf; cases f <;> first | rfl | exact absurd (by decide) hf

theorem agree_setLast (b : Bool) (s : State) : Agree [.last] s (s.setLast b) := by
  intro f hf; cases f <;> first | rfl | exact absurd (by decide) hf

theorem frames_fixedInstall (s : State) : Frames [.llLen, .llN, .dLen, .dN, .eng] s (fixedInstall s) := by
  intro f hf; cases f <;> first | rfl | exact absurd (by decide) hf

theorem frames_appendRepeat (l r : Nat) (s : State) : Frames [.scrSeq] s (appendRepeat l r s) := by
  unfold appendRepeat; split
  · exact Frames.raise _
  · intro f hf; cases f <;> first | rfl | exact absurd (by decide) hf

theorem frames_clRep16 (s : State) : Frames [.bc, .scrSeq] s (elemClRep16 s) := by
  unfold elemClRep16; split
  · exact Frames.raise _
  · exact Frames.bind ((frames_readBits 2 s).mono (by decide)) fun _ t => (frames_appendRepeat _ _ t).mono (by decide)

theorem frames_clRep17 (s : State) : Frames [.bc, .scrSeq] s (elemClRep17 s) :=
  Frames.bind ((frames_readBits 3 s).mono (by decide)) fun _ t => (frames_appendRepeat _ _ t).mono (by decide)

theorem frames_clRep18 (s : State) : Frames [.bc, .scrSeq] s (elemClRep18 s) :=
  Frames.bind ((frames_readBits 7 s).mono (by decide)) fun _ t => (frames_appendRepeat _ _ t).mono (by decide)

theorem frames_clLen (l : BitVec 4) (s : State) : Frames [.scrSeq] s (elemClLen l s) := by
  intro f hf; cases f <;> first | rfl | exact absurd (by decide) hf

theorem frames_clElem (sym : Nat) (s : State) : Frames [.bc, .scrSeq] s (clElem sym s) := by
  unfold clElem
  split
  · exact (frames_clLen _ s).mono (by decide)
  · split
    · exact frames_clRep16 s
    · split
      · exact frames_clRep17 s
      · split
        · exact frames_clRep18 s
        · trivial

theorem frames_readClLens (ks : List Nat) (s : State) : Frames [.bc, .scrClLen] s (readClLens ks s) := by
  induction ks generalizing s with
  | nil => exact Frames.self _
  | cons k ks ih =>
    exact Frames.bind ((frames_readBits 3 s).mono (by decide)) fun v t => Frames.after (fun f hf => by cases f <;> first | rfl | exact absurd (by decide) hf) (ih _)

theorem frames_readLengths (t : CodeTable) (n : Nat) (s : State) : Frames [.bc, .scrSeq] s (readLengths t n s) := by
  induction n generalizing s with
  | zero => trivial
  | succ n ih =>
    unfold readLengths; split
    · exact Frames.bind ((frames_resolve t s).mono (by decide)) fun sym u => Frames.bind (frames_clElem sym u) fun _ v => ih v
    · exact Frames.self _

theorem frames_dynHdr (hlit hdist : BitVec 5) (hclen : BitVec 4) (s : State) : Frames (.bc :: dynamicFields) s (elemDynHdr hlit hdist hclen s) := by
  unfold elemDynHdr
  simp only
  split
  · exact Frames.raise _
  · refine Frames.after (t := s.beginDynamic (hlit.toNat + 257) (hdist.toNat + 1)) (fun f hf => by cases f <;> first | rfl | exact absurd (by decide) hf) ?_
    refine Frames.bind ((frames_readClLens _ _).mono (by decide)) fun _ t => frames_withTable fun tab => Frames.bind ((frames_readLengths tab _ t).mono (by decide)) fun _ u => ?_
    exact frames_withTable fun _ => frames_withTable fun _ f hf => by cases f <;> first | rfl | exact absurd (by decide) hf

theorem frames_dynamicHeader (s : State) : Frames (.bc :: dynamicFields) s (dynamicHeader s) :=
  Frames.bind ((frames_readBits 5 s).mono (by decide)) fun _ t => Frames.bind ((frames_readBits 5 t).mono (by decide)) fun _ u => Frames.bind ((frames_readBits 4 u).mono (by decide)) fun _ v => frames_dynHdr _ _ _ v

/-- What a block header may write. -/
def headerFields : List Field := .bc :: .last :: .storedRem :: dynamicFields

theorem frames_blockElem (f : Bool) (n : Nat) (s : State) : Frames headerFields s (blockElem f n s) := by
  unfold blockElem; split <;> refine Frames.after (t := s.setLast f) ((agree_setLast f s).mono (by decide)) ?_
  · exact (frames_storedHeader _).mono (by decide)
  · exact (frames_fixedInstall _).mono (by decide)
  · exact (frames_dynamicHeader _).mono (by decide)
  · exact Frames.raise _

theorem frames_blockHeader (s : State) : Frames headerFields s (blockHeader s) :=
  Frames.bind ((frames_readBit s).mono (by decide)) fun b t => Frames.after ((agree_setLast b t).mono (by decide)) <| Frames.bind ((frames_readBits 2 _).mono (by decide)) fun n u => frames_blockElem b n u

theorem frames_skipBytes (n : Nat) (s : State) : Frames [.bc] s (skipBytes n s) := by
  induction n generalizing s with
  | zero => exact Frames.self _
  | succ n ih => exact Frames.bind (frames_readByte s) fun _ t => ih t

theorem frames_skipString (n : Nat) (s : State) : Frames [.bc] s (skipString n s) := by
  induction n generalizing s with
  | zero => trivial
  | succ n ih => exact Frames.bind (frames_readByte s) fun _ t => by split; exact Frames.self _; exact ih t

theorem frames_optional {b : Bool} {f : State → Res Unit} (hf : ∀ s, Frames [.bc] s (f s)) (s : State) : Frames [.bc] s (optionalField b f s) := by
  unfold optionalField; split
  · exact hf s
  · exact Frames.self _

theorem frames_gzipFields (flg : Byte) (s : State) : Frames [.bc] s (gzipFields flg s) :=
  Frames.bind (frames_skipBytes 6 s) fun _ t => Frames.bind (frames_optional (fun u => Frames.bind (frames_readBytes 2 u) fun _ v => frames_skipBytes _ v) t) fun _ u =>
    Frames.bind (frames_optional (fun v => frames_skipString _ v) u) fun _ v => Frames.bind (frames_optional (fun v => frames_skipString _ v) v) fun _ w => frames_optional (fun x => frames_skipBytes 2 x) w

theorem frames_gzipHdr (st : BitVec 32) (s : State) : Frames [.bc] s (elemGzipHdr st s) := by
  unfold elemGzipHdr; split
  · exact frames_gzipFields _ s
  · exact Frames.raise _

theorem frames_zlibHdr (hd : BitVec 16) (s : State) : Frames createFields s (elemZlibHdr hd s) := by
  unfold elemZlibHdr; split
  · intro f hf; cases f <;> first | rfl | exact absurd (by decide) hf
  · exact Frames.raise _

theorem frames_zlibTrl (a : Word) (s : State) : Frames [.trail] s (elemZlibTrl a s) := by
  unfold elemZlibTrl; split <;> intro f hf <;> cases f <;> first | rfl | exact absurd (by decide) hf

theorem frames_gzipTrl (a b : Word) (s : State) : Frames [.trail] s (elemGzipTrl a b s) := by
  unfold elemGzipTrl; split <;> intro f hf <;> cases f <;> first | rfl | exact absurd (by decide) hf

theorem frames_checkedByte (k : Nat) (s : State) : Frames [.bc] s (checkedByte k s) :=
  Frames.bind (frames_readByte s) fun _ _ => by split; exact Frames.self _; exact Frames.raise _

theorem frames_headerOf (fr : Frame) (s : State) : Frames (.bc :: createFields) s (headerOf fr s) := by
  unfold headerOf; split
  · exact Frames.self _
  · exact Frames.bind ((frames_readByte s).mono (by decide)) fun a t => Frames.bind ((frames_readByte t).mono (by decide)) fun b u => (frames_zlibHdr _ u).mono (by decide)
  · exact (Frames.bind (frames_checkedByte 0 s) fun _ t => Frames.bind (frames_checkedByte 1 t) fun _ u => Frames.bind (frames_checkedByte 2 u) fun _ v => Frames.bind (frames_checkedByte 3 v) fun _ w => frames_gzipHdr _ w).mono (by decide)

theorem frames_frameHeader (s : State) : Frames (.bc :: .phase :: createFields) s (frameHeader s) :=
  Frames.bind ((frames_headerOf _ s).mono (by decide)) fun _ t f hf => by cases f <;> first | rfl | exact absurd (by decide) hf

theorem frames_frameEnd (s : State) : Frames [.bc, .phase, .eng, .trail] s (frameEnd s) := by
  have ha : Agree [.bc, .phase, .eng, .trail] s s.enterTrailer := fun f hf => by cases f <;> first | rfl | exact absurd (by decide) hf
  refine Frames.bind ?_ fun _ t f hf => by cases f <;> first | rfl | exact absurd (by decide) hf
  unfold trailerOf; split
  · exact Frames.self _
  · exact Frames.after ha (Frames.bind ((frames_readBytes 4 _).mono (by decide)) fun _ t => (frames_zlibTrl _ t).mono (by decide))
  · exact Frames.after ha (Frames.bind ((frames_readBytes 8 _).mono (by decide)) fun _ t => (frames_gzipTrl _ _ t).mono (by decide))

/-- What a pass of Produce may write. -/
def passFields : List Field := headerFields ++ huffFields

theorem frames_producePass (s : State) : Frames passFields s (producePass s) := by
  unfold producePass; split
  · exact Frames.bind ((frames_blockHeader s).mono (by decide)) fun _ _ => Frames.self _
  · split
    · exact (agree_blockEnd s).mono (by decide)
    · exact Frames.bind ((frames_storedByte s).mono (by decide)) fun _ _ => Frames.self _
  · exact Frames.bind ((frames_huffStep s).mono (by decide)) fun _ _ => by split <;> exact Frames.self _
  · exact Frames.bind ((frames_huffStep s).mono (by decide)) fun _ _ => by split <;> exact Frames.self _
  · exact Frames.self _
  · trivial
  · trivial

theorem frames_produce (n : Nat) (s : State) : Frames passFields s (produce n s) := by
  induction n generalizing s with
  | zero => trivial
  | succ n ih => exact Frames.bind (frames_producePass s) fun _ t => by split; exact Frames.self _; exact ih t

theorem agree_latch (e : StreamError) (s : State) : Agree latchFields s (s.latch e) := by
  intro f hf; cases f <;> first | rfl | exact absurd (by decide) hf

/-- A step that finishes an operation writes what the operation writes, and what taking an error writes. -/
theorem Frames.finish {F : List Field} {s t : State} {r : Res Unit} (h : Frames F s r) (ht : r.finish = .next t) : Agree (latchFields ++ F) s t := by
  rcases finish_next ht with rfl | ⟨e, u, rfl, rfl⟩
  · exact Agree.mono h (List.subset_append_right _ _)
  · exact (Agree.mono h (List.subset_append_right _ _)).trans ((agree_latch e u).mono (List.subset_append_left _ _))

end Sys2Proof.Machine
end

