-- ==== Sys2Proof/Laws/PerInstr.lean ====
section
/-! SUPPORT. One statement about every instruction as syntax: its word fits the width its format has. -/

namespace Sys2Proof.Laws.EncodeFits

open Sys2Proof

set_option Elab.async false

/-- The word of an instruction fits its format, and has operands only where the format is that of the micro-operations
(30_encoding R110 to R123). -/
def Statement (i : Instr) : Prop :=
  (encode i).bits < 2 ^ (encode i).fmt.width ∧ ((encode i).fmt ≠ .microOp → (encode i).args = [])

theorem blkWord_fits (f : Bool) (t : Nat) (h : t < 4) :
    (blkWord f t).bits < 2 ^ (blkWord f t).fmt.width ∧ ((blkWord f t).fmt ≠ .microOp → (blkWord f t).args = []) :=
  ⟨by have := f.toNat_lt; simp only [blkWord, InstrWord.plain, Format.width, Nat.shiftLeft_eq]; omega, fun _ => rfl⟩

theorem cmdWord_fits (c : Nat) (arg : BitVec 24) (h : c < 256) :
    (cmdWord c arg).bits < 2 ^ (cmdWord c arg).fmt.width ∧ ((cmdWord c arg).fmt ≠ .microOp → (cmdWord c arg).args = []) :=
  ⟨by have := arg.isLt; simp only [cmdWord, InstrWord.plain, Format.width, Nat.shiftLeft_eq]; omega, fun _ => rfl⟩

theorem blockStored (bfinal : Bool) : Statement (.blockStored bfinal) :=
  blkWord_fits bfinal _ (by decide)
theorem blockFixed (bfinal : Bool) : Statement (.blockFixed bfinal) :=
  blkWord_fits bfinal _ (by decide)
theorem blockDynamic (bfinal : Bool) : Statement (.blockDynamic bfinal) :=
  blkWord_fits bfinal _ (by decide)
theorem blockReserved (bfinal : Bool) : Statement (.blockReserved bfinal) :=
  blkWord_fits bfinal _ (by decide)
theorem storedHdr (len nlen : BitVec 16) : Statement (.storedHdr len nlen) :=
  ⟨by have := len.isLt; have := nlen.isLt; simp only [encode, InstrWord.plain, Format.width, Nat.shiftLeft_eq]; omega, fun _ => rfl⟩
theorem storedByte (b : Byte) : Statement (.storedByte b) :=
  ⟨by have := b.isLt; simp only [encode, InstrWord.plain, Format.width]; omega, fun _ => rfl⟩
theorem dynHdr (hlit hdist : BitVec 5) (hclen : BitVec 4) : Statement (.dynHdr hlit hdist hclen) :=
  ⟨by have := hlit.isLt; have := hdist.isLt; have := hclen.isLt; simp only [encode, InstrWord.plain, Format.width, Nat.shiftLeft_eq]; omega, fun _ => rfl⟩
theorem clLen (s : BitVec 4) : Statement (.clLen s) :=
  ⟨by have := s.isLt; simp only [encode, InstrWord.plain, Format.width]; omega, fun _ => rfl⟩
theorem clRep16 : Statement (.clRep16) :=
  ⟨of_decide_eq_true rfl, fun _ => rfl⟩
theorem clRep17 : Statement (.clRep17) :=
  ⟨of_decide_eq_true rfl, fun _ => rfl⟩
theorem clRep18 : Statement (.clRep18) :=
  ⟨of_decide_eq_true rfl, fun _ => rfl⟩
theorem lit (s : Byte) : Statement (.lit s) :=
  ⟨by have := s.isLt; simp only [encode, InstrWord.plain, Format.width]; omega, fun _ => rfl⟩
theorem eob : Statement (.eob) :=
  ⟨of_decide_eq_true rfl, fun _ => rfl⟩
theorem len257 : Statement (.len257) :=
  ⟨of_decide_eq_true rfl, fun _ => rfl⟩
theorem len258 : Statement (.len258) :=
  ⟨of_decide_eq_true rfl, fun _ => rfl⟩
theorem len259 : Statement (.len259) :=
  ⟨of_decide_eq_true rfl, fun _ => rfl⟩
theorem len260 : Statement (.len260) :=
  ⟨of_decide_eq_true rfl, fun _ => rfl⟩
theorem len261 : Statement (.len261) :=
  ⟨of_decide_eq_true rfl, fun _ => rfl⟩
theorem len262 : Statement (.len262) :=
  ⟨of_decide_eq_true rfl, fun _ => rfl⟩
theorem len263 : Statement (.len263) :=
  ⟨of_decide_eq_true rfl, fun _ => rfl⟩
theorem len264 : Statement (.len264) :=
  ⟨of_decide_eq_true rfl, fun _ => rfl⟩
theorem len265 : Statement (.len265) :=
  ⟨of_decide_eq_true rfl, fun _ => rfl⟩
theorem len266 : Statement (.len266) :=
  ⟨of_decide_eq_true rfl, fun _ => rfl⟩
theorem len267 : Statement (.len267) :=
  ⟨of_decide_eq_true rfl, fun _ => rfl⟩
theorem len268 : Statement (.len268) :=
  ⟨of_decide_eq_true rfl, fun _ => rfl⟩
theorem len269 : Statement (.len269) :=
  ⟨of_decide_eq_true rfl, fun _ => rfl⟩
theorem len270 : Statement (.len270) :=
  ⟨of_decide_eq_true rfl, fun _ => rfl⟩
theorem len271 : Statement (.len271) :=
  ⟨of_decide_eq_true rfl, fun _ => rfl⟩
theorem len272 : Statement (.len272) :=
  ⟨of_decide_eq_true rfl, fun _ => rfl⟩
theorem len273 : Statement (.len273) :=
  ⟨of_decide_eq_true rfl, fun _ => rfl⟩
theorem len274 : Statement (.len274) :=
  ⟨of_decide_eq_true rfl, fun _ => rfl⟩
theorem len275 : Statement (.len275) :=
  ⟨of_decide_eq_true rfl, fun _ => rfl⟩
theorem len276 : Statement (.len276) :=
  ⟨of_decide_eq_true rfl, fun _ => rfl⟩
theorem len277 : Statement (.len277) :=
  ⟨of_decide_eq_true rfl, fun _ => rfl⟩
theorem len278 : Statement (.len278) :=
  ⟨of_decide_eq_true rfl, fun _ => rfl⟩
theorem len279 : Statement (.len279) :=
  ⟨of_decide_eq_true rfl, fun _ => rfl⟩
theorem len280 : Statement (.len280) :=
  ⟨of_decide_eq_true rfl, fun _ => rfl⟩
theorem len281 : Statement (.len281) :=
  ⟨of_decide_eq_true rfl, fun _ => rfl⟩
theorem len282 : Statement (.len282) :=
  ⟨of_decide_eq_true rfl, fun _ => rfl⟩
theorem len283 : Statement (.len283) :=
  ⟨of_decide_eq_true rfl, fun _ => rfl⟩
theorem len284 : Statement (.len284) :=
  ⟨of_decide_eq_true rfl, fun _ => rfl⟩
theorem len285 : Statement (.len285) :=
  ⟨of_decide_eq_true rfl, fun _ => rfl⟩
theorem litlenInvalid (low : BitVec 1) : Statement (.litlenInvalid low) :=
  ⟨by have := low.isLt; simp only [encode, InstrWord.plain, Format.width]; omega, fun _ => rfl⟩
theorem dist0 : Statement (.dist0) :=
  ⟨of_decide_eq_true rfl, fun _ => rfl⟩
theorem dist1 : Statement (.dist1) :=
  ⟨of_decide_eq_true rfl, fun _ => rfl⟩
theorem dist2 : Statement (.dist2) :=
  ⟨of_decide_eq_true rfl, fun _ => rfl⟩
theorem dist3 : Statement (.dist3) :=
  ⟨of_decide_eq_true rfl, fun _ => rfl⟩
theorem dist4 : Statement (.dist4) :=
  ⟨of_decide_eq_true rfl, fun _ => rfl⟩
theorem dist5 : Statement (.dist5) :=
  ⟨of_decide_eq_true rfl, fun _ => rfl⟩
theorem dist6 : Statement (.dist6) :=
  ⟨of_decide_eq_true rfl, fun _ => rfl⟩
theorem dist7 : Statement (.dist7) :=
  ⟨of_decide_eq_true rfl, fun _ => rfl⟩
theorem dist8 : Statement (.dist8) :=
  ⟨of_decide_eq_true rfl, fun _ => rfl⟩
theorem dist9 : Statement (.dist9) :=
  ⟨of_decide_eq_true rfl, fun _ => rfl⟩
theorem dist10 : Statement (.dist10) :=
  ⟨of_decide_eq_true rfl, fun _ => rfl⟩
theorem dist11 : Statement (.dist11) :=
  ⟨of_decide_eq_true rfl, fun _ => rfl⟩
theorem dist12 : Statement (.dist12) :=
  ⟨of_decide_eq_true rfl, fun _ => rfl⟩
theorem dist13 : Statement (.dist13) :=
  ⟨of_decide_eq_true rfl, fun _ => rfl⟩
theorem dist14 : Statement (.dist14) :=
  ⟨of_decide_eq_true rfl, fun _ => rfl⟩
theorem dist15 : Statement (.dist15) :=
  ⟨of_decide_eq_true rfl, fun _ => rfl⟩
theorem dist16 : Statement (.dist16) :=
  ⟨of_decide_eq_true rfl, fun _ => rfl⟩
theorem dist17 : Statement (.dist17) :=
  ⟨of_decide_eq_true rfl, fun _ => rfl⟩
theorem dist18 : Statement (.dist18) :=
  ⟨of_decide_eq_true rfl, fun _ => rfl⟩
theorem dist19 : Statement (.dist19) :=
  ⟨of_decide_eq_true rfl, fun _ => rfl⟩
theorem dist20 : Statement (.dist20) :=
  ⟨of_decide_eq_true rfl, fun _ => rfl⟩
theorem dist21 : Statement (.dist21) :=
  ⟨of_decide_eq_true rfl, fun _ => rfl⟩
theorem dist22 : Statement (.dist22) :=
  ⟨of_decide_eq_true rfl, fun _ => rfl⟩
theorem dist23 : Statement (.dist23) :=
  ⟨of_decide_eq_true rfl, fun _ => rfl⟩
theorem dist24 : Statement (.dist24) :=
  ⟨of_decide_eq_true rfl, fun _ => rfl⟩
theorem dist25 : Statement (.dist25) :=
  ⟨of_decide_eq_true rfl, fun _ => rfl⟩
theorem dist26 : Statement (.dist26) :=
  ⟨of_decide_eq_true rfl, fun _ => rfl⟩
theorem dist27 : Statement (.dist27) :=
  ⟨of_decide_eq_true rfl, fun _ => rfl⟩
theorem dist28 : Statement (.dist28) :=
  ⟨of_decide_eq_true rfl, fun _ => rfl⟩
theorem dist29 : Statement (.dist29) :=
  ⟨of_decide_eq_true rfl, fun _ => rfl⟩
theorem distInvalid (low : BitVec 1) : Statement (.distInvalid low) :=
  ⟨by have := low.isLt; simp only [encode, InstrWord.plain, Format.width]; omega, fun _ => rfl⟩
theorem zlibHdr (h : BitVec 16) : Statement (.zlibHdr h) :=
  ⟨by have := h.isLt; simp only [encode, InstrWord.plain, Format.width]; omega, fun _ => rfl⟩
theorem gzipHdr (start : BitVec 32) : Statement (.gzipHdr start) :=
  ⟨by have := start.isLt; simp only [encode, InstrWord.plain, Format.width]; omega, fun _ => rfl⟩
theorem zlibTrl (adler : Word) : Statement (.zlibTrl adler) :=
  ⟨by have := adler.isLt; simp only [encode, InstrWord.plain, Format.width]; omega, fun _ => rfl⟩
theorem gzipTrl (crc isize : Word) : Statement (.gzipTrl crc isize) :=
  ⟨by have := crc.isLt; have := isize.isLt; simp only [encode, InstrWord.plain, Format.width, Nat.shiftLeft_eq]; omega, fun _ => rfl⟩
theorem nop (arg : BitVec 24) : Statement (.nop arg) :=
  cmdWord_fits _ arg (by decide)
theorem start (arg : BitVec 24) : Statement (.start arg) :=
  cmdWord_fits _ arg (by decide)
theorem read (arg : BitVec 24) : Statement (.read arg) :=
  cmdWord_fits _ arg (by decide)
theorem enterTrailingBits (arg : BitVec 24) : Statement (.enterTrailingBits arg) :=
  cmdWord_fits _ arg (by decide)
theorem enterTrailingBytes (arg : BitVec 24) : Statement (.enterTrailingBytes arg) :=
  cmdWord_fits _ arg (by decide)
theorem readTrailBit (arg : BitVec 24) : Statement (.readTrailBit arg) :=
  cmdWord_fits _ arg (by decide)
theorem readTrailByte (arg : BitVec 24) : Statement (.readTrailByte arg) :=
  cmdWord_fits _ arg (by decide)
theorem getBit (arg : BitVec 24) : Statement (.getBit arg) :=
  cmdWord_fits _ arg (by decide)
theorem release (arg : BitVec 24) : Statement (.release arg) :=
  cmdWord_fits _ arg (by decide)
theorem cmdReserved0909 (arg : BitVec 24) : Statement (.cmdReserved0909 arg) :=
  cmdWord_fits _ arg (by decide)
theorem cmdReserved0A0B (low : BitVec 1) (arg : BitVec 24) : Statement (.cmdReserved0A0B low arg) :=
  cmdWord_fits _ arg (by have := low.isLt; omega)
theorem cmdReserved0C0F (low : BitVec 2) (arg : BitVec 24) : Statement (.cmdReserved0C0F low arg) :=
  cmdWord_fits _ arg (by have := low.isLt; omega)
theorem cmdReserved101F (low : BitVec 4) (arg : BitVec 24) : Statement (.cmdReserved101F low arg) :=
  cmdWord_fits _ arg (by have := low.isLt; omega)
theorem cmdReserved203F (low : BitVec 5) (arg : BitVec 24) : Statement (.cmdReserved203F low arg) :=
  cmdWord_fits _ arg (by have := low.isLt; omega)
theorem cmdReserved407F (low : BitVec 6) (arg : BitVec 24) : Statement (.cmdReserved407F low arg) :=
  cmdWord_fits _ arg (by have := low.isLt; omega)
theorem cmdReserved80FF (low : BitVec 7) (arg : BitVec 24) : Statement (.cmdReserved80FF low arg) :=
  cmdWord_fits _ arg (by have := low.isLt; omega)
theorem bcReadBit : Statement (.bcReadBit) :=
  ⟨of_decide_eq_true rfl, fun _ => rfl⟩
theorem bcReadBits (n : Nat) : Statement (.bcReadBits n) :=
  ⟨of_decide_eq_true rfl, fun h => absurd rfl h⟩
theorem bcAlign : Statement (.bcAlign) :=
  ⟨of_decide_eq_true rfl, fun _ => rfl⟩
theorem bcReadAlignedByte : Statement (.bcReadAlignedByte) :=
  ⟨of_decide_eq_true rfl, fun _ => rfl⟩
theorem bcGetBit (i : Nat) : Statement (.bcGetBit i) :=
  ⟨of_decide_eq_true rfl, fun h => absurd rfl h⟩
theorem hufBuild (lengths : List Nat) : Statement (.hufBuild lengths) :=
  ⟨of_decide_eq_true rfl, fun h => absurd rfl h⟩
theorem hufDecode (lengths : List Nat) : Statement (.hufDecode lengths) :=
  ⟨of_decide_eq_true rfl, fun h => absurd rfl h⟩
theorem winCreate (m : Nat) : Statement (.winCreate m) :=
  ⟨of_decide_eq_true rfl, fun h => absurd rfl h⟩
theorem winPut (b : Byte) : Statement (.winPut b) :=
  ⟨of_decide_eq_true rfl, fun h => absurd rfl h⟩
theorem winPutBulk (maxLen : Nat) (bytes : List Byte) : Statement (.winPutBulk maxLen bytes) :=
  ⟨of_decide_eq_true rfl, fun h => absurd rfl h⟩
theorem winCopy (d : Nat) : Statement (.winCopy d) :=
  ⟨of_decide_eq_true rfl, fun h => absurd rfl h⟩
theorem winCopyBulk (d maxLen : Nat) : Statement (.winCopyBulk d maxLen) :=
  ⟨of_decide_eq_true rfl, fun h => absurd rfl h⟩
theorem winAvailable : Statement (.winAvailable) :=
  ⟨of_decide_eq_true rfl, fun _ => rfl⟩
theorem winClear : Statement (.winClear) :=
  ⟨of_decide_eq_true rfl, fun _ => rfl⟩
theorem winRelease : Statement (.winRelease) :=
  ⟨of_decide_eq_true rfl, fun _ => rfl⟩
theorem winSetCap (m : Nat) : Statement (.winSetCap m) :=
  ⟨of_decide_eq_true rfl, fun h => absurd rfl h⟩

end Sys2Proof.Laws.EncodeFits
end

