-- ==== Sys2Proof/Laws/Session.lean ====
section
/-! SUPPORT. An open session, operation by operation: the window as the end of the output, the two tables that always build, and the budget of output for the bits consumed. -/

namespace Sys2Proof.Machine

open Sys2Proof


theorem look_emit_log {s : State} (hw : WindowOk s.win) (h : LogOk s) (b : Byte) : LogOk ((s.putByte b).emit b) := by
  obtain ⟨h1, h2, h3⟩ := h
  refine ⟨?_, ?_, ?_⟩
  · simp only [emit_win, putByte_win, put_filled, emit_out, putByte_out, List.length_append, List.length_singleton, Config.windowCapacity] at *
    omega
  · simp only [emit_win, putByte_win, put_wptr, emit_out, putByte_out, List.length_append, List.length_singleton, Config.windowCapacity] at *
    omega
  · intro d hd hd'
    simp only [emit_win, putByte_win, put_filled, emit_out, putByte_out, List.length_append, List.length_singleton, Config.windowCapacity] at *
    obtain ⟨e, rfl⟩ := Nat.exists_eq_add_of_le' hd
    by_cases he : e = 0
    · subst he
      rw [look_put_one _ _ hw.1]; simp
    · rw [look_put_succ _ _ e hw.1 (by omega) (by simp only [Config.windowCapacity]; omega), h3 e (by omega) (by omega)]
      rw [List.getElem?_append_left (by omega)]
      congr 1; omega

/-- The budget of 47_host_commands R460 with `k` bits of it unused. -/
def Slack (k : Nat) (s : State) : Prop := s.out.length + s.pendLen + 129 * k ≤ 129 * s.bitpos

/-- The session part of the invariant that every operation of an open session keeps. -/
structure Live (s : State) : Prop where
  core : CoreOk s
  log : LogOk s
  held : s.win.acq = true
  pend : 0 < s.pendLen → s.eng = .fixedHuffman ∨ s.eng = .dynamicHuffman
  rem : s.storedRem ≠ 0 → s.eng = .stored
  budget : Slack 0 s

theorem Live.reads {s t : State} (h : Live s) (hr : Reads s t) : Live t := by
  have hp := hr.position h.core.cursor
  have hc := h.core.reads hr
  have hs := hr.same
  have hb : s.out.length + s.pendLen + 129 * 0 ≤ 129 * t.bitpos := by have := h.budget; unfold Slack at this; omega
  rw [hs] at hc hb ⊢
  exact ⟨hc, h.log, h.held, h.pend, h.rem, hb⟩

theorem Slack.reads {k j : Nat} {s t : State} (h : Slack k s) (hr : Reads s t) (hp : s.bitpos + j ≤ t.bitpos) : Slack (k + j) t := by
  have h' : s.out.length + s.pendLen + 129 * k ≤ 129 * s.bitpos := h
  have : s.out.length + s.pendLen + 129 * (k + j) ≤ 129 * t.bitpos := by omega
  have hs := hr.same
  rw [hs] at this ⊢; exact this

theorem live_resolve (tab : CodeTable) {s : State} (h : Live s) : (resolve tab s).Sat False (fun sym t => (∃ e ∈ tab.codes, e.sym = sym) ∧ Reads s t ∧ Live t ∧ s.bitpos + 1 ≤ t.bitpos) (fun _ t => Live t) :=
  (resolve_reads tab s).weaken (fun _ _ h' => ⟨h'.1, h'.2.1, h.reads h'.2.1, h'.2.2 h.core.cursor⟩) fun _ _ h' => h.reads h'.2

theorem live_readBits {n : Nat} (hn : n ≤ 24) {s : State} (h : Live s) : (readBits n s).Sat False (fun v t => Reads s t ∧ Live t ∧ t.bitpos = s.bitpos + n ∧ v < 2 ^ n) (fun _ t => Live t) :=
  (readBits_reads hn s).weaken (fun _ _ h' => ⟨h'.1, h.reads h'.1, h'.2.1 h.core.cursor, h'.2.2⟩) fun _ _ h' => h.reads h'.2

theorem live_readByte {s : State} (h : Live s) : (readAlignedByte s).Sat False (fun _ t => Reads s t ∧ Live t ∧ s.bitpos + 8 ≤ t.bitpos ∧ t.bc.next = s.bc.next + 1 ∧ t.bc.next ≤ t.src.length) (fun _ t => Live t) :=
  (readAlignedByte_reads s).weaken (fun _ _ h' => ⟨h'.2.2.1, h.reads h'.2.2.1, h'.2.2.2 h.core.cursor, by rw [h'.2.1], (h'.2.2.1.cursor h.core.cursor).1⟩) fun _ _ h' => h.reads h'.2.2.2

theorem live_putAndEmit {s : State} (h : Live s) (hk : Slack 1 s) (b : Byte) : (putAndEmit b s).Sat False (fun _ t => t = (s.putByte b).emit b ∧ Live t) (fun _ _ => False) := by
  rw [putAndEmit, winPut_held b h.held]
  refine ⟨rfl, core_emit (core_put h.core b) b, look_emit_log h.core.window h.log b, h.held, h.pend, h.rem, ?_⟩
  have h' : s.out.length + s.pendLen + 129 * 1 ≤ 129 * s.bitpos := hk
  show (s.out ++ [b]).length + s.pendLen + 129 * 0 ≤ 129 * s.bitpos
  simp; omega

theorem live_dist {base ext : Nat} (hb : 1 ≤ base) (he : base + 2 ^ ext ≤ 32769) (hx : ext ≤ 24) {s : State} (h : Live s) (h2 : Slack 2 s) (h0 : s.pendLen = 0) (hh : s.eng = .fixedHuffman ∨ s.eng = .dynamicHuffman) :
    (distSymbol base ext s).Sat False (fun _ t => Live t ∧ s.bitpos ≤ t.bitpos ∧ t.eng = s.eng ∧ t.src = s.src) (fun _ t => Live t) := by
  refine Res.Sat.bind (live_readBits hx h) ?_
  rintro e t ⟨hr, hl, hp, hv⟩
  have hc : CoreOk { t with pendLen := t.scr.len, pendDist := base + e } :=
    ⟨hl.core.cursor, hl.core.window, hl.core.litlen, hl.core.dist, ⟨hl.core.scratch.2.2.2.2.2, by show base + e ≤ 32768; omega, fun _ => by show 1 ≤ base + e; omega⟩, hl.core.scratch, hl.core.registers⟩
  have het : t.eng = s.eng := by rw [hr.same]
  have hst : t.src = s.src := by rw [hr.same]
  refine ⟨⟨hc, hl.log, hl.held, fun _ => by show t.eng = _ ∨ t.eng = _; rw [het]; exact hh, hl.rem, ?_⟩, by show s.bitpos ≤ t.bitpos; omega, het, hst⟩
  have h' : s.out.length + s.pendLen + 129 * 2 ≤ 129 * s.bitpos := h2
  have ho : t.out = s.out := by rw [hr.same]
  have hlen : t.scr.len ≤ 258 := hl.core.scratch.2.2.2.2.2
  show t.out.length + t.scr.len + 129 * 0 ≤ 129 * t.bitpos
  rw [ho]; omega

theorem live_distElem (ds : Nat) {s : State} (h : Live s) (h2 : Slack 2 s) (h0 : s.pendLen = 0) (hh : s.eng = .fixedHuffman ∨ s.eng = .dynamicHuffman) :
    (distElem ds s).Sat False (fun _ t => Live t ∧ s.bitpos ≤ t.bitpos ∧ t.eng = s.eng ∧ t.src = s.src) (fun _ t => Live t) := by
  unfold distElem
  split
  · next elem he =>
    have hm := List.mem_of_getElem? he
    simp only [distElems, List.mem_cons, List.not_mem_nil, or_false] at hm
    rcases hm with rfl | rfl | rfl | rfl | rfl | rfl | rfl | rfl | rfl | rfl | rfl | rfl | rfl | rfl | rfl | rfl | rfl | rfl | rfl | rfl | rfl | rfl | rfl | rfl | rfl | rfl | rfl | rfl | rfl | rfl <;>
      exact live_dist (by decide) (by decide) (by decide) h h2 h0 hh
  · exact h

theorem builds_ll {s : State} (h : CoreOk s) : ∃ t, buildCodes s.llLengths = .ok t := by
  have := h.litlen.2.2.2.2
  unfold State.llLengths
  cases hb : buildCodes (s.llLen.take s.llN) with
  | error e => rw [hb] at this; cases this
  | ok t => exact ⟨t, rfl⟩
theorem builds_d {s : State} (h : CoreOk s) : ∃ t, buildCodes s.dLengths = .ok t := by
  have := h.dist.2.2.2.2
  unfold State.dLengths
  cases hb : buildCodes (s.dLen.take s.dN) with
  | error e => rw [hb] at this; cases this
  | ok t => exact ⟨t, rfl⟩

theorem live_len {base ext : Nat} (he : base + 2 ^ ext ≤ 259) (hx : ext ≤ 24) {s : State} (h : Live s) (h2 : Slack 1 s) (h0 : s.pendLen = 0) (hh : s.eng = .fixedHuffman ∨ s.eng = .dynamicHuffman) :
    (lenSymbol base ext s).Sat False (fun _ t => Live t ∧ s.bitpos + 1 ≤ t.bitpos ∧ t.eng = s.eng ∧ t.src = s.src) (fun _ t => Live t) := by
  refine Res.Sat.bind (live_readBits hx h) ?_
  rintro e t ⟨hr, hl, hp, hv⟩
  have hl' : Live { t with scr := { t.scr with len := base + e } } := by
    refine ⟨⟨hl.core.cursor, hl.core.window, hl.core.litlen, hl.core.dist, hl.core.copy, ?_, hl.core.registers⟩, hl.log, hl.held, hl.pend, hl.rem, hl.budget⟩
    obtain ⟨a, b, c, d, f, g⟩ := hl.core.scratch
    exact ⟨a, b, c, d, f, by show base + e ≤ 258; omega⟩
  have hs : Slack 1 { t with scr := { t.scr with len := base + e } } := show Slack 1 t from h2.reads (j := 0) hr (by omega)
  obtain ⟨tab, htab⟩ := builds_d hl'.core
  have h0' : t.pendLen = 0 := by rw [hr.same]; exact h0
  have het : t.eng = s.eng := by rw [hr.same]
  have hst : t.src = s.src := by rw [hr.same]
  unfold decodeDist
  rw [withTable_ok htab]
  refine Res.Sat.bind (live_resolve tab hl') ?_
  rintro ds u ⟨-, hru, hlu, hpu⟩
  have h0u : u.pendLen = 0 := by rw [hru.same]; exact h0'
  have heu : u.eng = s.eng := by rw [hru.same]; exact het
  have hsu : u.src = s.src := by rw [hru.same]; exact hst
  have hpt : State.bitpos { t with scr := { t.scr with len := base + e } } = t.bitpos := rfl
  refine (live_distElem ds hlu (hs.reads hru hpu) h0u (heu ▸ hh)).weaken (fun _ v hv => ⟨hv.1, by omega, by rw [hv.2.2.1, heu], by rw [hv.2.2.2, hsu]⟩) fun _ _ h => h

theorem live_lenElem {elem : State → Res Unit} (hm : elem ∈ lenElems) {s : State} (h : Live s) (h2 : Slack 1 s) (h0 : s.pendLen = 0) (hh : s.eng = .fixedHuffman ∨ s.eng = .dynamicHuffman) :
    (elem s).Sat False (fun _ t => Live t ∧ s.bitpos + 1 ≤ t.bitpos ∧ t.eng = s.eng ∧ t.src = s.src) (fun _ t => Live t) := by
    simp only [lenElems, List.mem_cons, List.not_mem_nil, or_false] at hm
    rcases hm with rfl | rfl | rfl | rfl | rfl | rfl | rfl | rfl | rfl | rfl | rfl | rfl | rfl | rfl | rfl | rfl | rfl | rfl | rfl | rfl | rfl | rfl | rfl | rfl | rfl | rfl | rfl | rfl | rfl <;>
      exact live_len (by decide) (by decide) h h2 h0 hh

theorem live_copyStep {s : State} (h : Live s) (hp : 0 < s.pendLen) : (copyStep s).Sat False (fun b t => Live t ∧ t.out = s.out ++ [b] ∧ t.eng = s.eng) (fun _ t => t = s) := by
  unfold copyStep
  cases hl : s.win.legal s.pendDist with
  | false =>
    have : winCopy s.pendDist s = .raised .illegalDistance s := by simp [winCopy, h.held, hl]
    rw [this]; rfl
  | true =>
    obtain ⟨b, -, hc⟩ := winCopy_ok h.core.window h.held hl
    rw [hc, bind_ok]
    refine ⟨?_, rfl, rfl⟩
    have h1 := core_emit (core_put h.core b) b
    refine ⟨⟨h1.cursor, h1.window, h1.litlen, h1.dist, ⟨by have := h1.copy.1; show _ - 1 ≤ 258; omega, h1.copy.2.1, fun hp => h1.copy.2.2 (by have : 0 < ((s.putByte b).emit b).pendLen - 1 := hp; omega)⟩, h1.scratch, h1.registers⟩, look_emit_log h.core.window h.log b, h.held, fun hq => h.pend hp, h.rem, ?_⟩
    have h' : s.out.length + s.pendLen + 129 * 0 ≤ 129 * s.bitpos := h.budget
    show (s.out ++ [b]).length + (s.pendLen - 1) + 129 * 0 ≤ 129 * s.bitpos
    simp; omega

end Sys2Proof.Machine
end

