-- ==== Sys2Proof/Tests/Slice0.lean ====
section
/-! SUPPORT. Tests of the model on words and states written out from the spec, and for each statement a state and operands that meet its hypotheses. -/

namespace Sys2Proof.Tests

open Sys2Proof Sys2Proof.Machine

set_option Elab.async false

/-! ## Well-formedness -/

/-- 40_bit_cursor R162 and R167: 24 bits at most. -/
theorem test_wellFormed_readBits : WellFormed (.bcReadBits 24) = true ∧ WellFormed (.bcReadBits 25) = false := by decide

/-- 43_sliding_window R231: 1 to WINDOW_CAPACITY. -/
theorem test_wellFormed_create :
    WellFormed (.winCreate 0) = false ∧ WellFormed (.winCreate 1) = true ∧ WellFormed (.winCreate 32768) = true
      ∧ WellFormed (.winCreate 32769) = false := by decide

/-! ## Decoding: words written out from 30_encoding.md and the opcode table -/

/-- Each word of a format decodes to the instruction beside it. -/
def decodesTo (f : Format) (rows : List (Nat × Instr)) : Bool := rows.all fun r => decide (decode (.plain f r.1) = .ok r.2)

/-- 30_encoding R111: BTYPE in bits 2:1, BFINAL in bit 0. -/
theorem test_decode_blkHdr :
    decodesTo .blkHdr [(0b000, .blockStored false), (0b011, .blockFixed true), (0b101, .blockDynamic true),
      (0b110, .blockReserved false)] = true := by decide

/-- 30_encoding R112 and R113. -/
theorem test_decode_counts :
    decodesTo .storedHdr [(0b11111111111110100000000000000101, .storedHdr 5 0xFFFA)] = true
      ∧ decodesTo .storedByte [(0b01101000, .storedByte 0x68)] = true
      ∧ decodesTo .dynHdr [(0b11100000100011, .dynHdr 3 1 14)] = true := by decide

/-- 30_encoding R116. -/
theorem test_decode_clSym :
    decodesTo .clSym [(0b00000, .clLen 0), (0b01111, .clLen 15), (0b10000, .clRep16), (0b10001, .clRep17), (0b10010, .clRep18)] = true := by
  decide

/-- 30_encoding R114: literals and end of block. -/
theorem test_decode_litlen :
    decodesTo .litlenSym [(0b001100001, .lit 0x61), (0b011111111, .lit 0xFF), (0b100000000, .eob), (0b100011110, .litlenInvalid 0),
      (0b100011111, .litlenInvalid 1)] = true := by decide

/-- 30_encoding R114: the length symbols. -/
theorem test_decode_lengths : decodesTo .litlenSym
  [(0b100000001, .len257), (0b100000010, .len258), (0b100000011, .len259), (0b100000100, .len260),
   (0b100000101, .len261), (0b100000110, .len262), (0b100000111, .len263), (0b100001000, .len264),
   (0b100001001, .len265), (0b100001010, .len266), (0b100001011, .len267), (0b100001100, .len268),
   (0b100001101, .len269), (0b100001110, .len270), (0b100001111, .len271), (0b100010000, .len272),
   (0b100010001, .len273), (0b100010010, .len274), (0b100010011, .len275), (0b100010100, .len276),
   (0b100010101, .len277), (0b100010110, .len278), (0b100010111, .len279), (0b100011000, .len280),
   (0b100011001, .len281), (0b100011010, .len282), (0b100011011, .len283), (0b100011100, .len284),
   (0b100011101, .len285)] = true := by decide

/-- 30_encoding R115. -/
theorem test_decode_distances : decodesTo .distSym
  [(0b00000, .dist0), (0b00001, .dist1), (0b00010, .dist2), (0b00011, .dist3), (0b00100, .dist4), (0b00101, .dist5),
   (0b00110, .dist6), (0b00111, .dist7), (0b01000, .dist8), (0b01001, .dist9), (0b01010, .dist10), (0b01011, .dist11),
   (0b01100, .dist12), (0b01101, .dist13), (0b01110, .dist14), (0b01111, .dist15), (0b10000, .dist16), (0b10001, .dist17),
   (0b10010, .dist18), (0b10011, .dist19), (0b10100, .dist20), (0b10101, .dist21), (0b10110, .dist22), (0b10111, .dist23),
   (0b11000, .dist24), (0b11001, .dist25), (0b11010, .dist26), (0b11011, .dist27), (0b11100, .dist28), (0b11101, .dist29),
   (0b11110, .distInvalid 0), (0b11111, .distInvalid 1)] = true := by decide

/-- 30_encoding R117 and R118. -/
theorem test_decode_containers :
    decodesTo .zlibHdr [(0b0111100010011100, .zlibHdr 0x789C)] = true
      ∧ decodesTo .gzipHdr [(0b00001000000010001000101100011111, .gzipHdr 0x08088B1F)] = true
      ∧ decodesTo .zlibTrl [(0b00010100111000010000001111001011, .zlibTrl 0x14E103CB)] = true
      ∧ decodesTo .gzipTrl [(0x0000000A4C11CDF0, .gzipTrl 0x4C11CDF0 10)] = true := by decide

/-- 30_encoding R122: CMD in bits 7:0, ARG in bits 31:8. -/
theorem test_decode_commands : decodesTo .hostCmd
  [(0x00000000, .nop 0), (0x00000001, .start 0), (0x00000002, .read 0), (0x00000003, .enterTrailingBits 0),
   (0x00000004, .enterTrailingBytes 0), (0x00000005, .readTrailBit 0), (0x00000006, .readTrailByte 0), (0x00000507, .getBit 5),
   (0xFFFFFF08, .release 0xFFFFFF), (0x00000009, .cmdReserved0909 0), (0x0000000B, .cmdReserved0A0B 1 0),
   (0x0000000E, .cmdReserved0C0F 2 0), (0x0000001F, .cmdReserved101F 15 0), (0x00000021, .cmdReserved203F 1 0),
   (0x0000007F, .cmdReserved407F 63 0), (0x000001FF, .cmdReserved80FF 127 1)] = true := by decide

/-- 30_encoding R123: UNIT in bits 7:4, OP in bits 3:0. -/
theorem test_decode_microOps :
    decode ⟨.microOp, 0b00010000, []⟩ = .ok .bcReadBit ∧ decode ⟨.microOp, 0b00010001, [7]⟩ = .ok (.bcReadBits 7)
      ∧ decode ⟨.microOp, 0b00010010, []⟩ = .ok .bcAlign ∧ decode ⟨.microOp, 0b00010011, []⟩ = .ok .bcReadAlignedByte
      ∧ decode ⟨.microOp, 0b00010100, [5]⟩ = .ok (.bcGetBit 5) ∧ decode ⟨.microOp, 0b00100000, [2, 1]⟩ = .ok (.hufBuild [2, 1])
      ∧ decode ⟨.microOp, 0b00100001, [1]⟩ = .ok (.hufDecode [1]) ∧ decode ⟨.microOp, 0b00110000, [4]⟩ = .ok (.winCreate 4)
      ∧ decode ⟨.microOp, 0b00110001, [97]⟩ = .ok (.winPut 97)
      ∧ decode ⟨.microOp, 0b00110010, [3, 104, 101]⟩ = .ok (.winPutBulk 3 [104, 101])
      ∧ decode ⟨.microOp, 0b00110011, [4]⟩ = .ok (.winCopy 4) ∧ decode ⟨.microOp, 0b00110100, [2, 5]⟩ = .ok (.winCopyBulk 2 5)
      ∧ decode ⟨.microOp, 0b00110101, []⟩ = .ok .winAvailable ∧ decode ⟨.microOp, 0b00110110, []⟩ = .ok .winClear
      ∧ decode ⟨.microOp, 0b00110111, []⟩ = .ok .winRelease ∧ decode ⟨.microOp, 0b00111000, [1]⟩ = .ok (.winSetCap 1) := by decide

/-- Words that are no instruction are rejected by name. -/
theorem test_decode_rejects :
    decode (.plain .clSym 19) = .error .noSuchSymbol ∧ decode (.plain .litlenSym 288) = .error .noSuchSymbol
      ∧ decode (.plain .blkHdr 8) = .error .tooWide ∧ decode (.plain .microOp 0x15) = .error .noSuchMicroOp
      ∧ decode ⟨.microOp, 0x31, [256]⟩ = .error .wrongOperands := by decide

/-- The patterns of 95_test_vectors V18, from 30_encoding R114 and R115. -/
theorem test_fixed_patterns :
    fixedLitlenBits 0 = [false, false, true, true, false, false, false, false]
      ∧ fixedLitlenBits 144 = [true, true, false, false, true, false, false, false, false]
      ∧ fixedLitlenBits 279 = [false, false, true, false, true, true, true]
      ∧ fixedLitlenBits 280 = [true, true, false, false, false, false, false, false]
      ∧ fixedDistBits 29 = [true, true, true, false, true] := by decide

/-! ## States -/

/-- A raw session just begun, with the stream of one fixed block that holds `a`. -/
def opened : State := { State.reset with phase := .body, win := { Window.reset with acq := true }, src := [0x4B, 0x04, 0x00] }

/-- That session with `a` read: 11 bits consumed, end of block next. The frame is `f`, and `tail` follows the block. -/
def sessIn (f : Frame) (tail : List Byte) : State :=
  { opened with
    frame := f
    src := 0x4B :: 0x04 :: 0x00 :: tail
    eng := .fixedHuffman
    last := true
    bc := { cur := 0x04, pos := 3, next := 2 }
    llLen := fixedLitlenLengths
    llN := 288
    dLen := fixedDistLengths
    dN := 32
    win := { mem := [(0, 0x61)], wptr := 1, filled := 1, maxDist := 32768, acq := true }
    out := [0x61]
    outCount := 1 }

/-- The raw session. -/
def sess : State := sessIn .raw []

/-- A session of frame `f` with the one byte of its last block, a stored one, read, and `tail` after it. -/
def storedEnd (f : Frame) (tail : List Byte) : State :=
  { sess with
    frame := f
    src := 0x01 :: 0x01 :: 0x00 :: 0xFE :: 0xFF :: 0x61 :: tail
    eng := .stored
    bc := { cur := 0x61, pos := 8, next := 6 } }

/-- That session at its end. -/
def ended : State := { sess with phase := .done, eng := .lastBlockFree, bc := { cur := 0x00, pos := 2, next := 3 } }

/-- An open session with the bytes `bs` as its source, of which nothing is consumed. -/
def reading (bs : List Byte) : State := { opened with src := bs }

/-- What a step leaves satisfies `p`. -/
def leaves (r : StepResult) (p : State → Bool) : Bool :=
  match r with
  | .next t => p t
  | _ => false

/-! ## Steps, with results from 95_test_vectors.md and the rules named there -/

/-- One READ runs a block header, a fixed install and a literal (44_inflate_blocks R270, R271, R278; 45_inflate_symbols R302). -/
theorem test_read_first :
    leaves (exec (.read 0) opened) (fun t => t.resp == .data 0x61 && t.bc == sess.bc && t.out == [0x61] && t.eng == .fixedHuffman && t.last)
      = true := by decide +kernel

/-- READ at the end of block (45_inflate_symbols R303, 46_frame_parser R424). -/
theorem test_read_end :
    leaves (exec (.read 0) sess) (fun t => t.resp == .eod && t.bc == ended.bc && t.phase == .done && t.eng == .lastBlockFree) = true := by
  decide +kernel

/-- V2: an empty zlib stream ends in one READ. -/
theorem test_zlib_empty :
    leaves (exec (.read 0) { reading [0x78, 0x9C, 0x03, 0x00, 0x00, 0x00, 0x00, 0x01] with phase := .header, frame := .zlib })
      (fun t => t.resp == .eod && readReg 0x08 t == 0x3E4 && t.trail == 1 && t.bc.next == 8 && t.win.maxDist == 32768) = true := by
  decide +kernel

/-- V1: the first READ of a stored block. -/
theorem test_stored_first :
    leaves (exec (.read 0) (reading [0x01, 0x05, 0x00, 0xFA, 0xFF, 0x68, 0x65]))
      (fun t => t.resp == .data 0x68 && t.storedRem == 4 && t.bc.next == 6 && t.eng == .stored) = true := by decide +kernel

/-- V34: two empty stored blocks, the first of them not the last. -/
theorem test_stored_empty :
    leaves (exec (.read 0) (reading [0x00, 0x00, 0x00, 0xFF, 0xFF, 0x01, 0x00, 0x00, 0xFF, 0xFF]))
      (fun t => readReg 0x04 t == 0x300 && readReg 0x08 t == 0x1C4 && t.outCount == 0 && t.bc.next == 10 && readReg 0x24 t == 0x08) = true := by
  decide +kernel

/-- V3: a corrupted complement. -/
theorem test_stored_corrupt :
    leaves (exec (.read 0) (reading [0x01, 0x05, 0x00, 0xFA, 0xFE]))
      (fun t => readReg 0x04 t == 0x3400 && readReg 0x08 t == 0x185 && readReg 0x24 t == 0x08 && t.bc.next == 5) = true := by decide +kernel

/-- V12 and V23: the end of the source. -/
theorem test_read_eof :
    leaves (exec (.read 0) (reading [])) (fun t => readReg 0x04 t == 0x1400 && readReg 0x08 t == 0x105) = true
      ∧ leaves (exec (.read 0) (reading [0x03])) (fun t => readReg 0x04 t == 0x1400 && readReg 0x08 t == 0x1A5 && t.bc.next == 1) = true := by
  decide +kernel

/-- V7: bits across a byte. -/
theorem test_readBits :
    leaves (exec (.bcReadBits 3) (reading [0xB5, 0x03])) (fun t => t.ret == .value 5 && t.bc.pos == 3 && t.bc.next == 1) = true
      ∧ leaves (exec (.bcReadBits 7) { reading [0xB5, 0x03] with bc := { cur := 0xB5, pos := 3, next := 1 } })
          (fun t => t.ret == .value 0x76 && t.bc.pos == 2 && t.bc.next == 2) = true := by decide

/-- V13 and V16: canonical codes. -/
theorem test_buildCodes :
    (buildCodes [2, 1, 3, 3]).toOption = some ⟨[⟨0, 2, 2⟩, ⟨1, 1, 0⟩, ⟨2, 3, 6⟩, ⟨3, 3, 7⟩], 3⟩
      ∧ (buildCodes [1, 1, 1]).toOption = none := by decide

/-- V4: a copy at the cap, and one beyond it. -/
theorem test_copy_cap :
    leaves (exec (.winCopy 2) { sess with win := { mem := [(0, 0x61), (1, 0x62)], wptr := 2, filled := 2, maxDist := 2, acq := true } })
        (fun t => t.ret == .byte 0x61 && t.win.wptr == 3) = true
      ∧ leaves (exec (.winCopy 3) { sess with win := { mem := [(0, 0x61), (1, 0x62)], wptr := 2, filled := 2, maxDist := 2, acq := true } })
        (fun t => t.err == some .illegalDistance && t.win.wptr == 2) = true := by decide

/-- V25: an overlapping copy. -/
theorem test_copy_overlap :
    leaves (exec (.winCopyBulk 2 5) { sess with win := { mem := [(0, 0x61), (1, 0x62)], wptr := 2, filled := 2, maxDist := 9, acq := true } })
      (fun t => t.ret == .copied 5 [0x61, 0x62, 0x61, 0x62, 0x61] && t.win.filled == 7) = true := by decide

/-- The checksum values that V5, V65 and the identities of V2 and 93 G11 give: ten `a`, and `hello`. -/
theorem test_checksums :
    adler32 (List.replicate 10 0x61) = 0x14E103CB ∧ adler32 [] = 1 ∧ crc32 [0x68, 0x65, 0x6C, 0x6C, 0x6F] = 0x3610A686 ∧ crc32 [] = 0 := by
  decide +kernel

/-- A bare table word is the instruction the very next step runs: START, and a length symbol with its distance. -/
theorem test_withFetchWord :
    leaves (step (State.reset.withFetchWord 8 0x01)) (fun t => t.resp == .ok && t.phase == .body) = true
      ∧ leaves (step (State.reset.withFetchWord 16 258)) (fun t => t.pendLen == 4 && t.pendDist == 1) = true
      ∧ decodeTableWord 16 258 = some .len258 := by decide +kernel

/-! ## Witnesses: for each statement with hypotheses, a state and operands that meet them, a boundary value for each clause -/

/-- `s` with one request waiting. -/
def ask (r : Request) (s : State) : State := { s with queue := [r] }

/-- A session at its end, in a trailing mode. -/
def trailing (e : Eng) : State := { ended with eng := e }

/-- A copy of length 3 and distance `d` outstanding. -/
def copying (d : Nat) : State := { sess with pendLen := 3, pendDist := d }

/-- A stored block with `n` bytes left. -/
def stored (n : BitVec 16) (bs : List Byte) : State := { reading bs with eng := .stored, storedRem := n }

/-- A code table that built. -/
theorem built {lengths : List Nat} (h : (buildCodes lengths).toOption.isSome = true) : ∃ tab, buildCodes lengths = .ok tab := by
  cases hb : buildCodes lengths with
  | error e => rw [hb] at h; cases h
  | ok t => exact ⟨t, rfl⟩

/-- The invariant of a session with one byte read, given where its cursor stands. -/
theorem sessionAfterByte {s : State} (hc : CursorOk s)
    (hs : { s with frame := .raw, src := sess.src, bc := sess.bc, eng := .fixedHuffman } = sess)
    (he : s.eng = .fixedHuffman ∨ s.eng = .stored) (hb : 1 ≤ s.bitpos) : SessionInv s := by
  simp only [State.ext_iff] at hs
  obtain ⟨h1, -, -, -, h5, -, h7, h8, h9, h10, h11, h12, h13, h14, h15, h16, h17, -, h19, -, h21, -, -, -, -, h26, -, -⟩ := hs
  have hl : ∀ d, 1 ≤ d → d ≤ sess.win.filled → d = 1 := fun d _ h => by have : d ≤ 1 := h; omega
  refine ⟨⟨hc, ?_, ?_, ?_, ?_, ?_, ?_, ?_⟩, by rw [h26]; decide, ⟨?_, ?_, ?_⟩, ⟨?_, ?_, ?_, ?_, ?_⟩, ?_, ?_⟩
  · rw [h13]
    exact ⟨by decide, by decide, by decide, by decide, by decide, fun d h h' => by rw [hl d h h']; decide⟩
  · rw [h7, h8]; exact ⟨by decide +kernel, by decide, by decide +kernel, by decide +kernel, by decide +kernel⟩
  · rw [h9, h10]; exact ⟨by decide, by decide, by decide, by decide, by decide +kernel⟩
  · unfold CopyOk; rw [h11, h12]; decide
  · rw [h21]; exact ⟨by decide, by decide, by decide, by decide, by decide, by decide⟩
  · unfold PhaseOk; rw [h1, h16]; exact ⟨by decide, nofun, by decide, by decide⟩
  · unfold RegistersOk; rw [h14, h15, h17, h19]; exact ⟨by decide, by decide, fun c h => by cases h⟩
  · rw [h13, h14]; decide
  · rw [h13, h14]; decide
  · intro d h h'
    rw [h13] at h'
    rw [h13, h14, hl d h h']; decide
  · rw [h1]; exact nofun
  · intro _
    rcases he with he | he <;> rw [he] <;> decide
  · rw [h1]; exact nofun
  · rw [h11]; exact fun h => absurd h (by decide)
  · rw [h5]; exact fun h => absurd rfl h
  · unfold HeldOk; rw [h13, h1]; decide
  · unfold BudgetOk
    rw [h14, h11]
    have : sess.out.length + sess.pendLen = 1 := rfl
    omega

theorem sessIn_session (f : Frame) (tail : List Byte) : SessionInv (sessIn f tail) :=
  sessionAfterByte ⟨by simp [sessIn], nofun, fun _ => rfl, (by decide : (3 : Fin 9) ≠ 0)⟩ rfl (.inl rfl) (by show 1 ≤ 11; decide)

theorem storedEnd_session (f : Frame) (tail : List Byte) : SessionInv (storedEnd f tail) :=
  sessionAfterByte ⟨by simp [storedEnd], nofun, fun _ => rfl, (by decide : (8 : Fin 9) ≠ 0)⟩ rfl (.inr rfl) (by show 1 ≤ 48; decide)

theorem sess_session : SessionInv sess := sessIn_session _ _

theorem sess_inv : Inv sess := sess_session.1

/-- A session at its zlib header. -/
def atHeader : State := { reading [0x78, 0x9C, 0x03] with phase := .header, frame := .zlib }

theorem atHeader_session : SessionInv atHeader := by
  refine ⟨⟨⟨by decide, by decide, by decide⟩, ⟨by decide, by decide, by decide, by decide, by decide, fun d h1 h2 => ?_⟩,
    ⟨by decide +kernel, by decide, by decide +kernel, by decide +kernel, by decide⟩,
    ⟨by decide, by decide, by decide, by decide, by decide⟩, by unfold CopyOk; decide,
    ⟨by decide, by decide, by decide, by decide, by decide, by decide⟩, ⟨by decide, by decide, by decide, by decide⟩,
    ⟨by decide, by decide, fun c h => by cases h⟩⟩, by decide, ⟨by decide, by decide, fun d h1 h2 => ?_⟩, ⟨?_, ?_, ?_, ?_, ?_⟩, by unfold HeldOk; decide,
    by unfold BudgetOk; decide⟩
  · have : d ≤ 0 := h2
    omega
  · have : d ≤ 0 := h2
    omega
  all_goals decide

theorem witness_EncodeOfDecode : decode (.plain .blkHdr 0b111) = .ok (.blockReserved true) := by decide

theorem witness_StepRunsDecodedInstruction :
    ((ask (.instr (.plain .litlenSym 256)) sess).queue = .instr (.plain .litlenSym 256) :: [] ∧ decode (.plain .litlenSym 256) = .ok .eob)
      ∧ (ask (.write 0x00 4 0x02) sess).queue = .write 0x00 4 0x02 :: [] ∧ decode (.plain .hostCmd (0x02 : Word).toNat) = .ok (.read 0) := by
  decide

theorem witness_EnginePassesRunTheInstructions :
    (∃ s1, readBits 3 opened = .ok 3 s1 ∧ decode (.plain .blkHdr 3) = .ok (.blockFixed true))
      ∧ (sess.pendLen = 0 ∧ ∃ s1, decodeLitlen sess = .ok 256 s1 ∧ decode (.plain .litlenSym 256) = .ok .eob)
      ∧ decode (.plain .distSym 29) = .ok .dist29 ∧ decode (.plain .clSym 18) = .ok .clRep18 := by
  refine ⟨⟨_, rfl, by decide⟩, ⟨rfl, ?_⟩, by decide, by decide⟩
  cases h : decodeLitlen sess with
  | ok v s1 =>
    have : (match decodeLitlen sess with | .ok v _ => v | _ => 0) = 256 := by decide +kernel
    rw [h] at this
    exact ⟨s1, by rw [show v = 256 from this], by decide⟩
  | raised e s1 =>
    have : (match decodeLitlen sess with | .ok _ _ => true | _ => false) = true := by decide +kernel
    rw [h] at this; cases this
  | fault f =>
    have : (match decodeLitlen sess with | .ok _ _ => true | _ => false) = true := by decide +kernel
    rw [h] at this; cases this
  | refused r =>
    have : (match decodeLitlen sess with | .ok _ _ => true | _ => false) = true := by decide +kernel
    rw [h] at this; cases this

/-- The READ clauses of the same statement: a block header in BlockFree, one that fails, and an end of block. -/
theorem witness_EnginePassesRead :
    (opened.phase = .body ∧ opened.eng = .blockFree)
      ∧ (∃ s1 t, readBits 3 opened = .ok 3 s1 ∧ exec (.blockFixed true) s1 = .next t ∧ t.phase ≠ .failed)
      ∧ (∃ s1 t, readBits 3 (reading [0x07]) = .ok 7 s1 ∧ exec (.blockReserved true) s1 = .next t ∧ t.phase = .failed)
      ∧ (sess.phase = .body ∧ sess.eng = .fixedHuffman ∧ 256 ≤ 256) ∧ (∀ s1, ∃ t, exec .eob s1 = .next t)
      ∧ (reading []).upcoming = [] ∧ { reading [0x80] with bc := { cur := 0x80, pos := 7, next := 1 } }.upcoming = [true]
      ∧ { reading [0x80] with bc := { cur := 0x80, pos := 6, next := 1 } }.upcoming = [false, true] :=
  ⟨by decide, ⟨_, _, rfl, rfl, by decide⟩, ⟨_, _, rfl, rfl, rfl⟩, by decide, fun _ => ⟨_, rfl⟩, by decide⟩

theorem witness_ElementsLeaveOtherFields :
    (encode (.lit 0x41)).fmt ≠ .hostCmd ∧ (encode (.lit 0x41)).fmt ≠ .microOp ∧ (∃ t, exec (.lit 0x41) sess = .next t)
      ∧ Field.phase ∉ writes (.lit 0x41) := ⟨by decide, by decide, ⟨_, rfl⟩, by decide⟩

theorem witness_CommandsLeaveOtherFields :
    (encode (.release 0)).fmt = .hostCmd ∧ (∃ t, exec (.release 0) sess = .next t) ∧ Field.err ∉ writes (.release 0) :=
  ⟨by decide, ⟨_, rfl⟩, by decide⟩

theorem witness_MicroOpsLeaveOtherFields :
    (encode (.winPut 0x41)).fmt = .microOp ∧ (∃ t, exec (.winPut 0x41) sess = .next t) ∧ Field.bc ∉ writes (.winPut 0x41) :=
  ⟨by decide, ⟨_, rfl⟩, by decide⟩

theorem witness_WindowBytesKept :
    (∃ t, exec (.winPut 0x41) sess = .next t) ∧ 0 ∉ storedAt (.winPut 0x41) sess ∧ 2 ∉ storedAt (.winPut 0x41) sess :=
  ⟨⟨_, rfl⟩, by decide, by decide⟩

theorem witness_EveryStepKeepsInv : Inv sess ∧ ∃ t, step sess = .next t := ⟨sess_inv, _, rfl⟩

theorem witness_HostStepsKeepSessionInv : SessionInv sess ∧ ∃ t, step sess = .next t := ⟨sess_session, _, rfl⟩

theorem witness_HostStepsNeverStop : SessionInv sess ∧ ∀ r, sess.queue.head? = some r → r.inInterface = true :=
  ⟨sess_session, fun r h => by cases h⟩

theorem witness_ReadAlwaysCompletes :
    (SessionInv sess ∧ sess.phase = .body) ∧ SessionInv atHeader ∧ atHeader.phase = .header :=
  ⟨⟨sess_session, rfl⟩, atHeader_session, rfl⟩

theorem witness_ErrorsLatchPrecisely :
    ∃ t, exec (.litlenInvalid 0) sess = .next t ∧ sess.phase ≠ .failed ∧ t.phase = .failed := ⟨_, rfl, by decide, rfl⟩

theorem witness_StreamPositionNeverDecreases : Inv sess ∧ ∃ t, step sess = .next t := ⟨sess_inv, _, rfl⟩

theorem witness_ConfigurationIsStableInASession :
    (∃ t, step (ask (.write 0x10 4 1) sess) = .next t) ∧ (ask (.write 0x10 4 1) sess).phase ≠ .idle
      ∧ (ask (.write 0x10 4 1) sess).phase ≠ .released ∧ (ask (.write 0x10 4 1) sess).queue.head? ≠ some .reset :=
  ⟨⟨_, rfl⟩, by decide, by decide, by decide⟩

theorem witness_OutputIsBoundedByTheSource : SessionInv sess := sess_session

theorem witness_ResetGivesResetValues : (ask .reset sess).queue = .reset :: [] := rfl

theorem witness_RegisterWindowAccess :
    (0x2C % 4 = 0 ∧ (ask (.read 0x2C 4) sess).queue = .read 0x2C 4 :: []) ∧ (0x30 % 4 = 0 ∧ 0x2C < 0x30)
      ∧ (0x04 % 4 = 0 ∧ (0x04 ≠ 0x00 ∧ 0x04 ≠ 0x10 ∧ 0x04 ≠ 0x14) ∧ (ask (.write 0x04 4 1) sess).queue = .write 0x04 4 1 :: []) := by
  decide

theorem witness_StatusFields :
    (∀ p n, (p, n) ∈ [(Phase.idle, 0), (.released, 6)] → { sess with phase := p }.phase = p)
      ∧ (Eng.trailingBytes, 6) ∈ [(Eng.blockFree, 0), (.trailingBytes, 6)] ∧ (trailing .trailingBytes).eng = .trailingBytes
      ∧ (sessIn .gzip []).frame = .gzip := ⟨fun _ _ _ => rfl, by decide, rfl, rfl⟩

theorem witness_ResponseWord :
    State.reset.resp = .none ∧ { sess with resp := .ok }.resp = .ok ∧ { sess with resp := .data 0xFF }.resp = .data 0xFF
      ∧ { sess with resp := .eod }.resp = .eod
      ∧ { sess with resp := .error StreamError.illegalDistance.code }.resp = .error StreamError.illegalDistance.code
      ∧ { sess with resp := .reject .badCmd }.resp = .reject .badCmd ∧ { sess with resp := .reject .badState }.resp = .reject .badState
      ∧ { sess with resp := .reject .badArg }.resp = .reject .badArg := by decide

theorem witness_ReadOnlyRegisterValues :
    sess.err = none ∧ (∀ e, { sess with err := some e }.err = some e) ∧ State.reset.phase = .idle ∧ sess.frame = .raw
      ∧ (atHeader.phase ≠ .idle ∧ atHeader.frame = .zlib)
      ∧ ({ atHeader with frame := .gzip }.phase ≠ .idle ∧ { atHeader with frame := .gzip }.frame = .gzip) :=
  ⟨rfl, fun _ => rfl, rfl, rfl, ⟨by decide, rfl⟩, by decide, rfl⟩

theorem witness_ConfigurationWrites :
    (∀ v, (ask (.write 0x10 4 v) State.reset).queue = .write 0x10 4 v :: [] ∧ (ask (.write 0x14 4 v) State.reset).queue = .write 0x14 4 v :: [])
      ∧ (State.reset.phase = .idle ∧ (2 : Word).toNat % 4 ≠ 3 ∧ (7 : Word).toNat % 4 = 3)
      ∧ (1 ≤ (1 : Word).toNat % 65536 ∧ (0x8000 : Word).toNat % 65536 ≤ 0x8000)
      ∧ ((0x10000 : Word).toNat % 65536 = 0 ∧ 0x8000 < (0x8001 : Word).toNat % 65536) ∧ (sess.phase ≠ .idle ∧ sess.phase ≠ .released) :=
  ⟨fun _ => ⟨rfl, rfl⟩, by decide, by decide, by decide, by decide⟩

theorem witness_RejectedCommands :
    ((encode (.start 0)).fmt = .hostCmd ∧ commandLegal (.start 0) sess = false)
      ∧ ((encode (.getBit 9)).fmt = .hostCmd
        ∧ ∃ t, exec (.getBit 9) (trailing .trailingBits) = .next t ∧ t.resp = .reject .badArg) :=
  ⟨by decide, by decide, ⟨_, rfl, rfl⟩⟩

theorem witness_ReservedCommandsAreRejected :
    9 ≤ (9 : Word).toNat % 256 ∧ 9 ≤ (0xFFFFFFFF : Word).toNat % 256 ∧ (ask (.write 0x00 4 9) sess).queue = .write 0x00 4 9 :: [] := by decide

theorem witness_StartOpensASession :
    State.reset.phase = .idle ∧ { sess with phase := .released }.phase = .released := by decide

theorem witness_StartTakesTheSupply :
    (ask (.supply [0x03]) State.reset).phase = .idle ∧ (ask (.supply [0x03]) State.reset).queue = .supply [0x03] :: [] := by decide

theorem witness_ReadAfterTheEnd :
    ended.phase = .done ∧ (failedWith .illegalDistance sess).phase = .failed
      ∧ (failedWith .illegalDistance sess).err = some .illegalDistance := by decide

theorem witness_TrailingModesAreEntered :
    (ended.phase = .done ∧ ended.eng = .lastBlockFree) ∧ (trailing .trailingBits).eng = .trailingBits
      ∧ (trailing .trailingBytes).eng = .trailingBytes := by decide

theorem witness_TrailingReads :
    (trailing .trailingBits).phase = .done
      ∧ ((trailing .trailingBits).eng = .trailingBits ∧ (trailing .trailingBits).upcoming = false :: List.replicate 5 false)
      ∧ { trailing .trailingBits with bc := { cur := 0, pos := 8, next := 3 } }.upcoming = []
      ∧ ((trailing .trailingBytes).eng = .trailingBytes
        ∧ { trailing .trailingBytes with bc := { cur := 4, pos := 3, next := 2 } }.src[2]? = some 0)
      ∧ (trailing .trailingBytes).src[(trailing .trailingBytes).bc.next]? = none
      ∧ (5 : BitVec 24).toNat < 8 - (trailing .trailingBits).bc.pos.val ∧ 8 - (trailing .trailingBits).bc.pos.val ≤ (6 : BitVec 24).toNat := by
  decide

theorem witness_ReadCopiesOneByte :
    ((copying 1).phase = .body ∧ (copying 1).eng = .fixedHuffman ∧ 0 < (copying 1).pendLen ∧ (copying 1).win.acq = true)
      ∧ (0 < (copying 1).pendDist ∧ (copying 1).pendDist ≤ (copying 1).win.maxDist ∧ (copying 1).pendDist ≤ (copying 1).win.filled
        ∧ (copying 1).win.look (copying 1).pendDist = some 0x61)
      ∧ (copying 0).pendDist = 0 ∧ (copying 32769).win.maxDist < (copying 32769).pendDist ∧ (copying 2).win.filled < (copying 2).pendDist := by
  decide

theorem witness_ReadStoredByte :
    ((stored 1 [0x68]).phase = .body ∧ (stored 1 [0x68]).eng = .stored ∧ (stored 1 [0x68]).storedRem ≠ 0 ∧ (stored 1 [0x68]).win.acq = true)
      ∧ (stored 1 [0x68]).src[(stored 1 [0x68]).bc.next]? = some 0x68 ∧ (stored 0xFFFF []).src[(stored 0xFFFF []).bc.next]? = none
      ∧ ((stored 0 [0x01]).phase = .body ∧ (stored 0 [0x01]).eng = .stored ∧ (stored 0 [0x01]).storedRem = 0 ∧ (stored 0 [0x01]).last = false)
      ∧ { stored 0 [] with last := true }.last = true := by decide

/-- A code of two symbols, a literal and the end of block, the two streams that begin with each, and two decodes that fail. -/
theorem witness_ReadHuffmanLiteralOrEnd :
    let s : State := { sess with llLen := List.replicate 255 0 ++ [1, 1], llN := 257 }
    (s.phase = .body ∧ s.eng = .fixedHuffman ∧ s.pendLen = 0 ∧ s.win.acq = true)
      ∧ buildCodes s.llLengths = .ok ⟨[⟨255, 1, 0⟩, ⟨256, 1, 1⟩], 1⟩
      ∧ CodeTable.decode ⟨[⟨255, 1, 0⟩, ⟨256, 1, 1⟩], 1⟩ s.upcoming = .good 255 (s.upcoming.drop 1)
      ∧ (CodeTable.decode ⟨[⟨255, 1, 0⟩, ⟨256, 1, 1⟩], 1⟩ { s with bc := { cur := 4, pos := 2, next := 2 } }.upcoming
          = .good 256 s.upcoming ∧ s.last = true ∧ s.frame = .raw)
      ∧ CodeTable.decode ⟨[⟨0, 1, 0⟩], 1⟩ (true :: s.upcoming) = .bad .malformedHuffmanStream s.upcoming
      ∧ CodeTable.decode ⟨[⟨0, 2, 0⟩], 2⟩ [true] = .bad .unexpectedEndOfStream [] := by
  decide +kernel

/-- The end-of-block code of the last block of a host-driven session is one of the payload's ends: six bits of padding, then `tail`. -/
theorem sessIn_payloadEnds (f : Frame) (tail : List Byte) : PayloadEnds (sessIn f tail) tail := by
  obtain ⟨tab, h⟩ := built (lengths := sess.llLengths) (by decide +kernel)
  refine .inr (.inr ⟨.inl rfl, rfl, rfl, tab, List.replicate 6 false, h, ?_, by decide⟩)
  have h0 : (match buildCodes sess.llLengths with
      | .ok t => decide (t.maxLen = 9 ∧ (List.range 6).all (fun L => (findCode t.codes (L + 1) 0).isNone) = true
          ∧ (findCode t.codes 7 0).map (·.sym) = some 256)
      | .error _ => false) = true := by decide +kernel
  rw [h] at h0
  simp only [decide_eq_true_eq, List.all_eq_true, List.mem_range, Option.isNone_iff_eq_none] at h0
  obtain ⟨h1, h2, h3⟩ := h0
  have h4 : (sessIn f tail).upcoming = List.replicate 7 false ++ (List.replicate 6 false ++ tail.flatMap byteBits) := by
    show (byteBits 0x04).drop 3 ++ (byteBits 0x00 ++ tail.flatMap byteBits) = _
    rw [← List.append_assoc, ← List.append_assoc]
    exact congrArg (· ++ tail.flatMap byteBits) (by decide)
  rw [h4, CodeTable.decode, h1]
  have e0 := h2 0 (by decide); have e1 := h2 1 (by decide); have e2 := h2 2 (by decide)
  have e3 := h2 3 (by decide); have e4 := h2 4 (by decide); have e5 := h2 5 (by decide)
  obtain ⟨c, hc, hs⟩ := Option.map_eq_some_iff.1 h3
  simp only [show List.replicate 7 false = [false, false, false, false, false, false, false] from rfl, List.cons_append, List.nil_append,
    decodeBits, Bool.toNat_false, Nat.zero_mul, Nat.zero_add, Nat.add_zero, e0, e1, e2, e3, e4, e5, hc, hs]

/-- The two ends that the host meets, in states that satisfy `SessionInv`, with a good trailer of `a` (Adler-32 0x00620062) and a source that ends
in the trailer; and the values that tell a good trailer from a bad one. -/
theorem witness_ReadValidatesTheTrailer :
    (∀ f tail, SessionInv (sessIn f tail) ∧ (sessIn f tail).phase = .body ∧ (sessIn f tail).frame = f ∧ PayloadEnds (sessIn f tail) tail)
      ∧ (∀ f tail, SessionInv (storedEnd f tail) ∧ (storedEnd f tail).phase = .body ∧ (storedEnd f tail).frame = f
          ∧ PayloadEnds (storedEnd f tail) tail)
      ∧ PayloadEnds { sess with eng := .lastBlockFree } [0x00]
      ∧ ((0x00 : Byte) ++ (0x62 : Byte) ++ (0x00 : Byte) ++ (0x62 : Byte) : BitVec 32) = adler32Fn sess.ckParam sess.out
      ∧ ((0x00 : Byte) ++ (0x62 : Byte) ++ (0x00 : Byte) ++ (0x63 : Byte) : BitVec 32) ≠ adler32Fn sess.ckParam sess.out
      ∧ (((0xE8 : Byte) ++ (0xB7 : Byte) ++ (0xBE : Byte) ++ (0x43 : Byte) : BitVec 32) = crc32Fn sess.ckParam sess.out
        ∧ ((0x00 : Byte) ++ (0x00 : Byte) ++ (0x00 : Byte) ++ (0x01 : Byte) : BitVec 32) = sess.outCount)
      ∧ ((0x00 : Byte) ++ (0x00 : Byte) ++ (0x00 : Byte) ++ (0x02 : Byte) : BitVec 32) ≠ sess.outCount
      ∧ [(0x00 : Byte), 0x62, 0x00].length < 4 ∧ (List.replicate 7 (0x00 : Byte)).length < 8 :=
  ⟨fun f tail => ⟨sessIn_session f tail, rfl, rfl, sessIn_payloadEnds f tail⟩,
    fun f tail => ⟨storedEnd_session f tail, rfl, rfl, .inr (.inl ⟨rfl, rfl, rfl, rfl⟩)⟩, .inl ⟨rfl, rfl⟩, by decide +kernel, by decide +kernel,
    by decide +kernel, by decide, by decide, by decide⟩

/-- From a session's own end of block the trailer after it is read and found good (46_frame_parser R421). -/
theorem test_trailer_after_end_of_block :
    leaves (exec (.read 0) (sessIn .zlib [0x00, 0x62, 0x00, 0x62]))
      (fun t => t.resp == .eod && t.phase == .done && t.trail == 0x00620062 && t.eng == .trailingBytes && t.bc.next == 7) = true
      ∧ leaves (exec (.read 0) (storedEnd .zlib [0x00, 0x62, 0x00, 0x63]))
        (fun t => t.err == some .compressAlgorithmError && t.trail == 0x00620063 && t.out == [0x61]) = true := by decide +kernel

theorem witness_StoredBlockHeader :
    ((reading [5, 0, 0xFA, 0xFF]).src.drop (reading [5, 0, 0xFA, 0xFF]).bc.next = [5, 0, 0xFA, 0xFF]
        ∧ ((0 : Byte) ++ (5 : Byte) : BitVec 16) ^^^ ((0xFF : Byte) ++ (0xFA : Byte) : BitVec 16) = (0xFFFF : BitVec 16))
      ∧ ((0 : Byte) ++ (5 : Byte) : BitVec 16) ^^^ ((0xFE : Byte) ++ (0xFA : Byte) : BitVec 16) ≠ (0xFFFF : BitVec 16)
      ∧ ((reading []).bc.next ≤ (reading []).src.length ∧ (reading []).src.length < (reading []).bc.next + 4)
      ∧ (reading [1, 2, 3]).src.length < (reading [1, 2, 3]).bc.next + 4 := by decide

/-- The stream of a dynamic header: 18 and 1 have one-bit codes, 138 and 118 zeros, then a one for the end of block and a one for
distance symbol 0. -/
def dynamicSrc : List Byte := [0x00, 0x38, 0x10, 0x00, 0x00, 0x00, 0x00, 0x00, 0xF2, 0x7F, 0x0D]

/-- A good header, and headers that fail: a count limit, an oversubscribed code-length code, a source that ends in the lengths. -/
theorem witness_DynamicHeaderInstallsItsLengths :
    let s := reading dynamicSrc
    let c : State := { s with bc := { cur := 0x38, pos := 6, next := 2 } }
    dynamicOf (0 : BitVec 5).toNat (0 : BitVec 5).toNat (14 : BitVec 4).toNat c.upcoming
        = .good (List.replicate 256 0 ++ [1], [1]) [false, false]
      ∧ s.upcoming = s.upcoming.take 5 ++ (s.upcoming.drop 5).take 5 ++ (s.upcoming.drop 10).take 4 ++ c.upcoming
      ∧ dynamicOf 30 0 0 c.upcoming = .bad .malformedHuffmanStream c.upcoming
      ∧ dynamicOf 0 0 0 (List.replicate 9 true) = .bad .unexpectedEndOfStream []
      ∧ dynamicOf 0 0 0 (List.replicate 6 false ++ [true, false, false, true, false, false] ++ [true])
          = .bad .unexpectedEndOfStream []
      ∧ dynamicOf 0 0 0 ([true, false, false, true, false, false, true, false, false, false, false, false] ++ [true])
          = .bad .malformedHuffmanStream [true]
      ∧ (reading [0x00]).upcoming.length < 14 := by
  decide +kernel

/-- The dynamic header of the same stream, as one instruction (44_inflate_blocks R280). -/
theorem test_dynamic_header :
    leaves (exec (.blockDynamic true) (reading dynamicSrc))
      (fun t => t.eng == .dynamicHuffman && t.llN == 257 && t.dN == 1 && t.llLen == List.replicate 256 0 ++ 1 :: List.replicate 31 0
        && t.dLen == 1 :: List.replicate 31 0 && t.bc == { cur := 0x0D, pos := 6, next := 11 }) = true := by decide +kernel

theorem witness_StoredElements :
    (5 : BitVec 16) ^^^ 0xFFFA = 0xFFFF ∧ (5 : BitVec 16) ^^^ 0xFEFA ≠ 0xFFFF ∧ (stored 1 []).win.acq = true ∧ (stored 1 []).storedRem ≠ 0 := by
  decide

theorem witness_CodeLengthSymbols :
    let s : State := { reading [0xFF] with scr := { Scratch.reset with nLit := 257, nDist := 1, seq := [7] } }
    opened.scr.seq = []
      ∧ (s.scr.seq.getLast? = some 7 ∧ s.upcoming = [true, true] ++ List.replicate 6 true ∧ [true, true].length = 2)
      ∧ s.upcoming = List.replicate 7 true ++ [true]
      ∧ s.scr.seq.length + (11 + bitsValue (List.replicate 7 true)) ≤ s.scr.nLit + s.scr.nDist
      ∧ opened.scr.nLit + opened.scr.nDist < opened.scr.seq.length + (3 + bitsValue [false, false, false])
      ∧ s.scr.seq ≠ [] ∧ (reading []).upcoming.length < 2 ∧ ((reading [0x00]).upcoming.drop 2).length < 7 := by decide

theorem witness_LiteralAndEndOfBlock : sess.win.acq = true ∧ sess.last = true ∧ opened.last = false := by decide

/-- The longest length with extra bits and the longest distance, under a distance code of one bit; and the scans that fail: distance
symbol 30 under the fixed code, in both modes, bits that are no code, an empty code, and a source that ends. -/
theorem witness_LengthSymbols :
    let s : State := { reading [0xDF, 0xFF, 0x07] with dLen := List.replicate 29 0 ++ [1, 0, 0], dN := 30 }
    (.len284, 227, 5) ∈ lenTable ∧ (.len257, 3, 0) ∈ lenTable ∧ (.len285, 258, 0) ∈ lenTable
      ∧ s.upcoming = List.replicate 5 true ++ ([false] ++ (List.replicate 13 true ++ List.replicate 5 false))
      ∧ buildCodes s.dLengths = .ok ⟨[⟨29, 1, 0⟩], 1⟩
      ∧ pairOf .reject ⟨[⟨29, 1, 0⟩], 1⟩ 227 5 s.upcoming = .good (258, 32768) (List.replicate 5 false)
      ∧ pairOf .reject ⟨[⟨30, 1, 0⟩], 1⟩ 3 0 [false, true] = .bad .malformedHuffmanStream [true]
      ∧ pairOf .illegalDistance ⟨[⟨30, 1, 0⟩], 1⟩ 3 0 [false, true] = .bad .illegalDistance [true]
      ∧ pairOf .reject ⟨[⟨29, 1, 0⟩], 1⟩ 3 0 [true, true] = .bad .malformedHuffmanStream [true]
      ∧ (buildCodes opened.dLengths = .ok ⟨[], 0⟩ ∧ pairOf .reject ⟨[], 0⟩ 3 0 [true] = .bad .malformedHuffmanStream [true])
      ∧ pairOf .reject ⟨[⟨29, 1, 0⟩], 1⟩ 227 5 [true] = .bad .unexpectedEndOfStream []
      ∧ pairOf .reject ⟨[⟨29, 1, 0⟩], 1⟩ 3 0 [] = .bad .unexpectedEndOfStream []
      ∧ pairOf .reject ⟨[⟨29, 1, 0⟩], 1⟩ 3 0 [false, true] = .bad .unexpectedEndOfStream [] := by decide +kernel

/-- V46: distance symbol 30 after a length symbol, in both modes. -/
theorem test_dist30 :
    leaves (exec (.read 0) { sess with src := [0x4B, 0x04, 0x3E] })
      (fun t => readReg 0x04 t == 0x4400 && readReg 0x08 t == 0x1A5 && readReg 0x24 t == 0x17 && t.pendLen == 0) = true
      ∧ leaves (exec (.read 0) { sess with src := [0x4B, 0x04, 0x3E], distMode := .illegalDistance }) (fun t => readReg 0x04 t == 0x5400)
        = true := by decide +kernel

theorem witness_DistanceSymbols :
    (.dist0, 1, 0) ∈ distTable ∧ (.dist29, 24577, 13) ∈ distTable
      ∧ (reading [0xFF, 0xFF]).upcoming = List.replicate 13 true ++ List.replicate 3 true ∧ (List.replicate 13 true).length = 13
      ∧ (reading [0xFF]).upcoming.length < 13 := by decide

theorem witness_ReservedElementValuesRaise :
    286 < (30 : BitVec 5).toNat + 257 ∧ 30 < (30 : BitVec 5).toNat + 1 ∧ sess.distMode = .reject
      ∧ { sess with distMode := .illegalDistance }.distMode = .illegalDistance := by decide

theorem witness_ZlibHeader :
    ((0x789C : BitVec 16).toNat % 31 = 0 ∧ (0x789C : BitVec 16).toNat / 256 % 16 = 8 ∧ (0x789C : BitVec 16).toNat / 4096 < 8
        ∧ (0x789C : BitVec 16).getLsbD 5 = false)
      ∧ (0x789D : BitVec 16).toNat % 31 ≠ 0 ∧ (0x799B : BitVec 16).toNat / 256 % 16 ≠ 8 ∧ ¬(0x881C : BitVec 16).toNat / 4096 < 8
      ∧ (0x78BB : BitVec 16).getLsbD 5 = true
      ∧ (atHeader.phase = .header ∧ atHeader.frame = .zlib ∧ atHeader.src.drop atHeader.bc.next = [0x78, 0x9C, 0x03]
        ∧ ((0x78 : Byte).toNat * 256 + (0x9C : Byte).toNat) % 31 = 0 ∧ (0x78 : Byte).toNat % 16 = 8 ∧ (0x78 : Byte).toNat / 16 < 8
        ∧ (0x9C : Byte).getLsbD 5 = false)
      ∧ ((0x78 : Byte).toNat * 256 + (0x9D : Byte).toNat) % 31 ≠ 0 ∧ ([0x78] : List Byte).length < 2 := by decide

/-- Every optional field at once: an extra field of one byte, a name, an empty comment and a header CRC; and none. -/
theorem tail_all : GzipTail 0x1F [1, 2, 3, 4, 5, 6, 1, 0, 0xEE, 0x6E, 0, 0, 0xCC, 0xCC] :=
  ⟨[1, 2, 3, 4, 5, 6], [0xEE], [0x6E], [], [0xCC, 0xCC], 1, 0, by decide⟩

theorem tail_none : GzipTail 0x00 [0, 0, 0, 0, 0, 3] := ⟨[0, 0, 0, 0, 0, 3], [], [], [], [0, 0], 0, 0, by decide⟩

theorem witness_GzipHeader :
    let h : State := { reading [0x1F, 0x8B, 0x08, 0x00, 0, 0, 0, 0, 0, 3, 0x03, 0x00] with phase := .header, frame := .gzip }
    ((0x1F : Byte).toNat < 32 ∧ GzipTail 0x1F [1, 2, 3, 4, 5, 6, 1, 0, 0xEE, 0x6E, 0, 0, 0xCC, 0xCC])
      ∧ GzipTail 0x00 [0, 0, 0, 0, 0, 3]
      ∧ (h.phase = .header ∧ h.frame = .gzip
        ∧ h.src.drop h.bc.next = 0x1F :: 0x8B :: 0x08 :: 0x00 :: ([0, 0, 0, 0, 0, 3] ++ [0x03, 0x00]))
      ∧ (([1, 2, 3, 4, 5, 6, 1, 0, 0xEE, 0x6E] : List Byte) <+: [1, 2, 3, 4, 5, 6, 1, 0, 0xEE, 0x6E, 0, 0, 0xCC, 0xCC])
      ∧ ([1, 2, 3, 4, 5, 6, 1, 0, 0xEE, 0x6E] : List Byte) ≠ [1, 2, 3, 4, 5, 6, 1, 0, 0xEE, 0x6E, 0, 0, 0xCC, 0xCC]
      ∧ (0x00088B1E : BitVec 32).toNat % 2 ^ 24 ≠ 0x088B1F ∧ 2 ^ 29 ≤ (0x20088B1F : BitVec 32).toNat
      ∧ [(0x1F : Byte), 0x8B, 0x08, 0x20] = [0x1F, 0x8B, 0x08] ++ 0x20 :: [] ∧ 32 ≤ (0x20 : Byte).toNat ∧ (0x1E : Byte) ≠ 0x1F :=
  ⟨⟨by decide, tail_all⟩, tail_none, by decide, by decide, by decide, by decide, by decide, by decide, by decide, by decide⟩

/-- READ at a gzip header reads the header and the first byte of the payload, and stops at the first bad byte (46_frame_parser R410, R412). -/
theorem test_gzip_read :
    leaves (exec (.read 0)
        { reading [0x1F, 0x8B, 0x08, 0x08, 0, 0, 0, 0, 0, 3, 0x66, 0x00, 0x4B, 0x04, 0x00] with phase := .header, frame := .gzip })
      (fun t => t.resp == .data 0x61 && t.phase == .body && t.bc.next == 14) = true
      ∧ leaves (exec (.read 0) { reading [0x1F, 0x8B, 0x08, 0x20, 0, 0] with phase := .header, frame := .gzip })
        (fun t => t.resp == .error 3 && t.bc.next == 4) = true := by decide +kernel

theorem witness_TrailerElements :
    (1 : Word) = adler32Fn opened.ckParam opened.out ∧ (2 : Word) ≠ adler32Fn opened.ckParam opened.out
      ∧ ((0 : Word) = crc32Fn opened.ckParam opened.out ∧ (0 : Word) = opened.outCount) ∧ (1 : Word) ≠ crc32Fn opened.ckParam opened.out := by
  decide +kernel

theorem witness_BuildCodesAcceptance :
    (∃ tab, buildCodes [15, 14, 0, 1] = .ok tab) ∧ buildCodes [16] = .error .malformedHuffmanStream
      ∧ buildCodes [1, 1, 15] = .error .malformedHuffmanStream
      ∧ (buildCodes [2, 1, 3, 3] = .ok ⟨[⟨0, 2, 2⟩, ⟨1, 1, 0⟩, ⟨2, 3, 6⟩, ⟨3, 3, 7⟩], 3⟩ ∧ 7 = (2 ^ (3 - 2) + 2 ^ (3 - 1)) + 1) := by
  exact ⟨⟨_, rfl⟩, by rfl, by rfl, by rfl, by decide⟩

theorem witness_BuiltCodesArePrefixFree :
    buildCodes [1, 2] = .ok ⟨[⟨0, 1, 0⟩, ⟨1, 2, 2⟩], 2⟩
      ∧ (⟨1, 2, 2⟩ : Code) ∈ (⟨[⟨0, 1, 0⟩, ⟨1, 2, 2⟩], 2⟩ : CodeTable).codes ∧ codeBits 2 2 <+: codeBits 2 2 := by
  exact ⟨by rfl, by decide, List.prefix_rfl⟩

theorem witness_ResolverDecodesEveryCode :
    buildCodes [1, 2] = .ok ⟨[⟨0, 1, 0⟩, ⟨1, 2, 2⟩], 2⟩ ∧ buildCodes [1, 1, 1] = .error .malformedHuffmanStream
      ∧ ((⟨1, 2, 2⟩ : Code) ∈ [(⟨0, 1, 0⟩ : Code), ⟨1, 2, 2⟩] ∧ (reading [0x01]).upcoming = codeBits 2 2 ++ List.replicate 6 false)
      ∧ buildCodes [] = .ok ⟨[], 0⟩ ∧ buildCodes [0, 0] = .ok ⟨[], 0⟩
      ∧ (buildCodes [1] = .ok ⟨[⟨0, 1, 0⟩], 1⟩ ∧ (reading [0x01]).upcoming = [true] ++ List.replicate 7 false
        ∧ ∀ c ∈ [(⟨0, 1, 0⟩ : Code)], ¬ codeBits c.val c.len <+: [true])
      ∧ ((reading []).upcoming.length < 1 ∧ ∀ c ∈ [(⟨0, 1, 0⟩ : Code)], ¬ codeBits c.val c.len <+: (reading []).upcoming) := by
  exact ⟨by rfl, by rfl, by decide, by rfl, by rfl, ⟨by rfl, by decide, by decide⟩, by decide⟩

/-- V20: under a code of one symbol the other bit is no code. -/
theorem test_undecodable :
    leaves (exec (.hufDecode [1]) (reading [0x01])) (fun t => t.err == some .malformedHuffmanStream && t.bc == { cur := 1, pos := 1, next := 1 })
      = true := by decide

theorem witness_ReadBitTakesTheNextBit :
    opened.upcoming = true :: opened.upcoming.drop 1 ∧ opened.bc.pos = 8 ∧ sess.bc.pos ≠ 8 ∧ (reading []).upcoming = [] := by decide

theorem witness_ReadBitsTakesTheNextField :
    ((24 : Nat) ≤ 24 ∧ opened.upcoming = opened.upcoming ++ [] ∧ opened.upcoming.length = 24)
      ∧ ((0 : Nat) ≤ 24 ∧ opened.upcoming = [] ++ opened.upcoming)
      ∧ (reading []).upcoming.length < 1 ∧ 24 < 25 := by decide

theorem witness_AlignedReads :
    opened.src[opened.bc.next]? = some 0x4B ∧ (reading []).src[(reading []).bc.next]? = none
      ∧ 4 < 8 - sess.bc.pos.val ∧ 8 - sess.bc.pos.val ≤ 5 := by decide

theorem witness_ContractViolationsAreRefused :
    (¬((2 : Nat) = 4 ∧ 0 % 4 = 0) ∧ (ask (.read 0 2) sess).queue = .read 0 2 :: [])
      ∧ (¬((4 : Nat) = 4 ∧ 2 % 4 = 0) ∧ (ask (.write 2 4 0) sess).queue = .write 2 4 0 :: []) ∧ State.reset.win.acq = false := by decide

theorem witness_WindowControl :
    (1 ≤ 32768 ∧ 32768 ≤ 32768) ∧ (1 ≤ sess.win.maxDist) ∧ sess.win.maxDist < 32769 := by decide

theorem witness_WindowPuts : sess.win.acq = true := rfl

theorem witness_WindowCopy :
    (sess.win.acq = true ∧ Inv sess ∧ 0 < 1 ∧ 1 ≤ sess.win.maxDist ∧ 1 ≤ sess.win.filled) ∧ sess.win.maxDist < 32769 ∧ sess.win.filled < 2 :=
  ⟨⟨rfl, sess_inv, by decide, by decide, by decide⟩, by decide, by decide⟩

theorem witness_BulkCopyOverlaps :
    (Inv sess ∧ sess.win.acq = true ∧ 0 < 1 ∧ 1 ≤ sess.win.maxDist ∧ 1 ≤ sess.win.filled) ∧ sess.win.maxDist < 32769 ∧ sess.win.filled < 2 :=
  ⟨⟨sess_inv, rfl, by decide, by decide, by decide⟩, by decide, by decide⟩

end Sys2Proof.Tests
end

section
/-! The register window read back (10_state R60 to R73), and the statements about STATUS and the read-only registers. A packed register
is first a sum of its fields weighted by their places, as a number; each field then comes back by division and remainder. -/

namespace Sys2Proof.Machine

open Sys2Proof

section
variable (s : State)

/-! ## What a read of each register answers -/

theorem readReg_status : readReg 0x08 s = s.statusWord := rfl
theorem readReg_error : readReg 0x0C s = BitVec.ofNat 32 (errCode s.err) := rfl
theorem readReg_winDist : readReg 0x18 s = BitVec.ofNat 32 s.win.maxDist := rfl
theorem readReg_outCount : readReg 0x1C s = s.outCount := rfl
theorem readReg_inBytes : readReg 0x20 s = BitVec.ofNat 32 s.bc.next := rfl
theorem readReg_bitpos : readReg 0x24 s = s.bitposWord := rfl
theorem readReg_checksum : readReg 0x28 s = s.checksumWord := rfl
theorem readReg_trail : readReg 0x2C s = s.trail := rfl

/-! ## Fields of a word as numbers -/

theorem toNat_extractLsb'_eq_div_mod (w : Word) (start len : Nat) :
    (w.extractLsb' start len).toNat = w.toNat / 2 ^ start % 2 ^ len := by
  rw [BitVec.extractLsb'_toNat, Nat.shiftRight_eq_div_pow]

theorem getLsbD_eq_of_div_mod {w : Word} {i : Nat} {b : Bool} (h : w.toNat / 2 ^ i % 2 = b.toNat) : w.getLsbD i = b := by
  rw [BitVec.getLsbD, Nat.testBit_eq_decide_div_mod_eq, h]
  cases b <;> rfl

/-! ## The codes of the phase, the engine state and the frame fit their fields -/

theorem phase_code_lt (p : Phase) : p.code < 8 := by cases p <;> decide
theorem eng_code_lt (g : Eng) : g.code < 8 := by cases g <;> decide
theorem frame_code_lt (f : Frame) : f.code < 4 := by cases f <;> decide

theorem phase_code_of_mem : ∀ x ∈ [(Phase.idle, 0), (.header, 1), (.body, 2), (.trailer, 3), (.done, 4), (.failed, 5), (.released, 6)],
    x.1.code = x.2 := by decide

theorem eng_code_of_mem : ∀ x ∈ [(Eng.blockFree, 0), (.stored, 1), (.fixedHuffman, 2), (.dynamicHuffman, 3), (.lastBlockFree, 4),
    (.trailingBits, 5), (.trailingBytes, 6)], x.1.code = x.2 := by decide

theorem frame_code_of_mem : ∀ x ∈ [(Frame.raw, 0), (.zlib, 1), (.gzip, 2)], x.1.code = x.2 := by decide

/-! ## STATUS (R65) -/

/-- Every field of STATUS as a quotient and remainder of the word. -/
theorem statusWord_div_mod :
    s.statusWord.toNat / 2 ^ 0 % 2 ^ 3 = s.phase.code
      ∧ s.statusWord.toNat / 2 ^ 3 % 2 = 0
      ∧ s.statusWord.toNat / 2 ^ 4 % 2 ^ 3 = s.eng.code
      ∧ s.statusWord.toNat / 2 ^ 7 % 2 = s.last.toNat
      ∧ s.statusWord.toNat / 2 ^ 8 % 2 = s.win.acq.toNat
      ∧ s.statusWord.toNat / 2 ^ 9 % 2 ^ 2 = s.frame.code
      ∧ s.statusWord.toNat / 2 ^ 11 % 2 = s.pend.toNat
      ∧ s.statusWord.toNat / 2 ^ 12 % 2 ^ 20 = 0 := by
  have hp := phase_code_lt s.phase
  have hg := eng_code_lt s.eng
  have hl := s.last.toNat_lt
  have ha := s.win.acq.toNat_lt
  have hf := frame_code_lt s.frame
  have hd := s.pend.toNat_lt
  -- the sum stays below 2^12, so the word loses nothing of it
  have hw : s.statusWord.toNat = s.phase.code + 2 ^ 4 * s.eng.code + 2 ^ 7 * s.last.toNat
      + 2 ^ 8 * s.win.acq.toNat + 2 ^ 9 * s.frame.code + 2 ^ 11 * s.pend.toNat := by
    simp only [State.statusWord, BitVec.toNat_ofNat, Nat.shiftLeft_eq]
    omega
  refine ⟨?_, ?_, ?_, ?_, ?_, ?_, ?_, ?_⟩ <;> omega

/-! ## BITPOS (R71) -/

/-- Every field of BITPOS as a quotient and remainder of the word. -/
theorem bitposWord_div_mod :
    s.bitposWord.toNat / 2 ^ 0 % 2 ^ 4 = s.bc.pos.val
      ∧ s.bitposWord.toNat / 2 ^ 4 % 2 ^ 4 = s.avail
      ∧ s.bitposWord.toNat / 2 ^ 8 % 2 ^ 24 = 0 := by
  have hpos : s.bc.pos.val ≤ 8 := Nat.le_of_lt_succ s.bc.pos.isLt
  have havail : s.avail ≤ 8 := Nat.sub_le 8 s.bc.pos.val
  have hw : s.bitposWord.toNat = s.bc.pos.val + 2 ^ 4 * s.avail := by
    simp only [State.bitposWord, BitVec.toNat_ofNat, Nat.shiftLeft_eq]
    omega
  refine ⟨?_, ?_, ?_⟩ <;> omega

end

/-! ## ERROR and CHECKSUM (R66, R72) -/

section
variable {s : State}

theorem readReg_error_of_err {e : Option StreamError} (h : s.err = e) : readReg 0x0C s = BitVec.ofNat 32 (errCode e) := by
  rw [readReg_error, h]

theorem checksumWord_idle (h : s.phase = .idle) : s.checksumWord = 0 := if_pos h

theorem checksumWord_of_ne_idle (h : s.phase ≠ .idle) : s.checksumWord = s.checksum := if_neg h

theorem checksum_raw (h : s.frame = .raw) : s.checksum = 0 := by rw [State.checksum, h]

theorem checksum_zlib (h : s.frame = .zlib) : s.checksum = adler32Fn s.ckParam s.out := by rw [State.checksum, h]

theorem checksum_gzip (h : s.frame = .gzip) : s.checksum = crc32Fn s.ckParam s.out := by rw [State.checksum, h]

theorem checksumWord_raw (h : s.frame = .raw) : s.checksumWord = 0 := by
  by_cases hi : s.phase = .idle
  · exact checksumWord_idle hi
  · rw [checksumWord_of_ne_idle hi, checksum_raw h]

end

/-! ## The statements -/

/-- Settles O21: the fields do not overlap, so each comes back from the sum as a quotient and remainder. -/
theorem statusFields : Obligations.StatusFields := by
  intro s
  obtain ⟨hphase, h3, heng, hlast, hacq, hframe, hpend, htop⟩ := statusWord_div_mod s
  simp only [readReg_status, toNat_extractLsb'_eq_div_mod]
  refine ⟨?phase, getLsbD_eq_of_div_mod (b := false) h3, ?eng, getLsbD_eq_of_div_mod hlast, getLsbD_eq_of_div_mod hacq, ?frame,
    getLsbD_eq_of_div_mod hpend, ?top, rfl⟩
  case phase => exact fun p n hmem hp => by rw [hphase, hp, phase_code_of_mem (p, n) hmem]
  case eng => exact fun g n hmem hg => by rw [heng, hg, eng_code_of_mem (g, n) hmem]
  case frame => exact fun f n hmem hf => by rw [hframe, hf, frame_code_of_mem (f, n) hmem]
  case top => exact BitVec.eq_of_toNat_eq (by rw [toNat_extractLsb'_eq_div_mod, htop]; rfl)

/-- Settles O23: each register shows its field; BITPOS by its quotients and remainders, CHECKSUM by the frame outside Idle. -/
theorem readOnlyRegisterValues : Obligations.ReadOnlyRegisterValues := by
  intro s
  obtain ⟨hpos, havail, htop⟩ := bitposWord_div_mod s
  simp only [readReg_bitpos, readReg_checksum, toNat_extractLsb'_eq_div_mod]
  refine ⟨readReg_error_of_err, readReg_error_of_err, readReg_error_of_err, readReg_error_of_err, readReg_error_of_err,
    readReg_error_of_err, readReg_winDist s, readReg_outCount s, readReg_inBytes s, hpos, havail, ?bitposTop, ?checksumZero, ?zlib, ?gzip,
    readReg_trail s, readReg_error_of_err reset_err, rfl, reset_outCount, rfl, rfl, checksumWord_idle reset_phase⟩
  case bitposTop => exact BitVec.eq_of_toNat_eq (by rw [toNat_extractLsb'_eq_div_mod, htop]; rfl)
  case checksumZero => exact fun h => h.elim checksumWord_idle checksumWord_raw
  case zlib => exact fun hi hf => by rw [checksumWord_of_ne_idle hi, checksum_zlib hf]
  case gzip => exact fun hi hf => by rw [checksumWord_of_ne_idle hi, checksum_gzip hf]

end Sys2Proof.Machine
end

section
/-! Which length lists build a table and what the table holds (41_canonical_huffman R182 to R186). The recurrences of the model, the Kraft
sum and `nextCode`, are both sums of the weights of the used lengths below a bound; one lemma on that sum closes both. -/

namespace Sys2Proof.Machine

open Sys2Proof

/-! ## The weight of the used lengths below a bound -/

/-- The used lengths below `L`, each weighted by the codes of `m` bits that one code of that length covers. -/
def weightBelow (lengths : List Nat) (m L : Nat) : Nat :=
  ((lengths.filter fun K => decide (0 < K ∧ K < L)).map fun K => 2 ^ (m - K)).sum

@[simp] theorem weightBelow_zero (lengths : List Nat) (m : Nat) : weightBelow lengths m 0 = 0 := by
  simp [weightBelow]

theorem weightBelow_cons (K : Nat) (lengths : List Nat) (m L : Nat) :
    weightBelow (K :: lengths) m L = (if 0 < K ∧ K < L then 2 ^ (m - K) else 0) + weightBelow lengths m L := by
  unfold weightBelow
  split <;> simp [*]

theorem lengthCount_cons (K : Nat) (lengths : List Nat) (L : Nat) :
    lengthCount (K :: lengths) L = (if 0 < K ∧ K = L then 1 else 0) + lengthCount lengths L := by
  unfold lengthCount
  by_cases hL : L = 0
  · simp [hL]; omega
  · by_cases hK : K = L <;> simp [hL, hK, Nat.pos_of_ne_zero, Nat.add_comm]

theorem weightBelow_succ (lengths : List Nat) (m L : Nat) :
    weightBelow lengths m (L + 1) = weightBelow lengths m L + lengthCount lengths L * 2 ^ (m - L) := by
  induction lengths with
  | nil => simp [weightBelow, lengthCount]
  | cons K lengths ih =>
    rw [weightBelow_cons, weightBelow_cons, lengthCount_cons, ih, Nat.add_mul]
    rcases Nat.lt_trichotomy K L with h | rfl | h
    · rw [if_neg (c := 0 < K ∧ K = L) (by omega)]
      simp only [h, Nat.lt_succ_of_lt h]; omega
    · simp only [Nat.lt_irrefl, Nat.lt_succ_self, and_true, and_false, if_false, ite_mul, one_mul, zero_mul]; omega
    · rw [if_neg (by omega), if_neg (by omega), if_neg (by omega)]; omega

/-- One more bit doubles the codes that each shorter code covers. -/
theorem weightBelow_succ_width (lengths : List Nat) {m L : Nat} (h : L ≤ m + 1) :
    weightBelow lengths (m + 1) L = weightBelow lengths m L * 2 := by
  unfold weightBelow
  rw [← List.sum_map_mul_right]
  refine congrArg List.sum (List.map_congr_left fun K hK => ?_)
  have hKL : K < L := (of_decide_eq_true (List.mem_filter.1 hK).2).2
  rw [Nat.succ_sub (by omega), Nat.pow_succ]

theorem kraftBelow_eq_weightBelow (lengths : List Nat) (L : Nat) : kraftBelow lengths L = weightBelow lengths 15 L := by
  induction L with
  | zero => rw [kraftBelow, weightBelow_zero]
  | succ L ih => rw [kraftBelow, ih, weightBelow_succ]

/-- The closed form of `nextCode` (R182). -/
theorem firstCode_eq_weightBelow (lengths : List Nat) (L : Nat) : firstCode lengths L = weightBelow lengths L L := by
  induction L with
  | zero => rw [firstCode, weightBelow_zero]
  | succ L ih =>
    calc firstCode lengths (L + 1) = (weightBelow lengths L L + lengthCount lengths L * 2 ^ (L - L)) * 2 := by
          rw [firstCode, ih, Nat.sub_self, Nat.pow_zero, Nat.mul_one]
      _ = weightBelow lengths L (L + 1) * 2 := by rw [weightBelow_succ]
      _ = weightBelow lengths (L + 1) (L + 1) := (weightBelow_succ_width lengths (Nat.le_refl _)).symm

/-- The Kraft sum over the lengths is the sum over the used symbols (R184). -/
theorem kraftSum_eq_sum_used {lengths : List Nat} (h : ∀ L ∈ lengths, L ≤ 15) :
    kraftSum lengths = ((lengths.filter (0 < ·)).map fun L => 2 ^ (15 - L)).sum := by
  have hused : lengths.filter (fun K => decide (0 < K ∧ K < 16)) = lengths.filter (0 < ·) :=
    List.filter_congr fun K hK => decide_eq_decide.2 (and_iff_left (Nat.lt_succ_of_le (h K hK)))
  rw [kraftSum_eq, kraftBelow_eq_weightBelow, weightBelow, hused]

/-! ## What a table holds -/

theorem assignCodes_map_sym_len (next : List Nat) (i : Nat) (ls : List Nat) :
    (assignCodes next i ls).map (fun c => (c.sym, c.len))
      = ((ls.zipIdx i).filter (0 < ·.1)).map (fun p => (p.2, p.1)) := by
  induction ls generalizing next i with
  | nil => rfl
  | cons L ls ih =>
    rw [assignCodes, List.zipIdx_cons]
    split
    · next h => rw [ih, List.filter_cons_of_neg (by simp [h])]
    · next h => rw [List.map_cons, ih, List.filter_cons_of_pos (by simpa using Nat.pos_of_ne_zero h), List.map_cons]

/-- `maxLen` is the maximum of the lengths and 0 (R186). -/
theorem maxLength_isMax (lengths : List Nat) :
    maxLength lengths ∈ 0 :: lengths ∧ ∀ L ∈ 0 :: lengths, L ≤ maxLength lengths :=
  List.max?_eq_some_iff.1 List.max?_cons'

/-- A code's value: the weight of the shorter codes, and the symbols of its own length before it (R182). -/
theorem code_val {lengths : List Nat} {t : CodeTable} (h : buildCodes lengths = .ok t) {c : Code} (hc : c ∈ t.codes) :
    c.val = weightBelow lengths c.len c.len + (lengths.take c.sym).count c.len := by
  obtain ⟨-, -, -, hval, -⟩ := code_interval h hc
  rw [hval, firstCode_eq_weightBelow, List.count]

theorem buildCodes_succeeds_iff (lengths : List Nat) :
    (∃ tab, buildCodes lengths = .ok tab) ↔ (∀ L ∈ lengths, L ≤ 15) ∧ kraftSum lengths ≤ 2 ^ 15 := by
  constructor
  · rintro ⟨tab, h⟩
    obtain ⟨hmax, hkraft, -⟩ := buildCodes_ok h
    exact ⟨hmax, hkraft⟩
  · exact fun ⟨hmax, hkraft⟩ => ⟨_, buildCodes_of hmax hkraft⟩

/-- Settles O49: the Kraft sum and `nextCode` are weights of the used lengths, and the table is read off `assignCodes`. -/
theorem buildCodesAcceptance : Obligations.BuildCodesAcceptance := by
  intro lengths
  refine ⟨?accepts, fun _ => buildCodes_error, fun tab h => ⟨?symbols, fun c hc => code_val h hc, ?largest⟩⟩
  case accepts =>
    rw [buildCodes_succeeds_iff]
    exact and_congr_right fun hmax => by rw [kraftSum_eq_sum_used hmax]
  case symbols =>
    obtain ⟨-, -, rfl⟩ := buildCodes_ok h
    exact assignCodes_map_sym_len _ 0 lengths
  case largest =>
    obtain ⟨-, -, rfl⟩ := buildCodes_ok h
    obtain ⟨hmem, hle⟩ := maxLength_isMax lengths
    exact ⟨fun L hL => hle L (List.mem_cons_of_mem 0 hL), List.mem_cons.1 hmem⟩

end Sys2Proof.Machine
end

section
/-! Stored and fixed blocks (44_inflate_blocks R271, R274, R278). A 16-bit field read from an aligned cursor is two aligned bytes, so the stored
header is its four bytes, or the source's end among them. -/

namespace Sys2Proof.Machine

open Sys2Proof

/-! ## Aligned bytes and 16-bit fields -/

theorem align_of_aligned {s : State} (h : s.bc.pos = 8) : s.align = s := by
  rw [State.align, ← h]

/-- Eight bits from an aligned cursor are an aligned byte (40_bit_cursor R164). -/
theorem readBits_eight_aligned {s : State} (h : s.bc.pos = 8) :
    readBits 8 s = (readAlignedByte s).bind fun b t => .ok b.toNat t := by
  have hr := readBits_reads (n := 8) (by decide) s
  rw [readAlignedByte, align_of_aligned h, bind_assoc]
  cases hb : readBits 8 s with
  | ok v t =>
    rw [hb] at hr
    simp only [bind_ok, BitVec.toNat_ofNat, Nat.mod_eq_of_lt hr.2.2]
  | raised e t => rfl
  | fault f => rfl
  | refused r => rfl

theorem readBitsLoop_add (m n : Nat) (s : State) :
    readBitsLoop (m + n) s
      = (readBitsLoop m s).bind fun v s1 => (readBitsLoop n s1).bind fun w s2 => .ok (v + 2 ^ m * w) s2 := by
  induction m generalizing s with
  | zero =>
    rw [Nat.zero_add, readBitsLoop, bind_ok]
    cases readBitsLoop n s <;> simp
  | succ m ih =>
    rw [Nat.add_right_comm, readBitsLoop, readBitsLoop, bind_assoc]
    congr 1; funext b s1
    rw [ih, bind_assoc, bind_assoc]
    congr 1; funext v s2
    rw [bind_ok, bind_assoc]
    congr 1; funext w s3
    rw [bind_ok, Nat.mul_add, ← Nat.mul_assoc, ← Nat.pow_succ', Nat.add_assoc]

/-- A 16-bit field at an aligned cursor is two bytes, little-endian (20_memory R85). -/
theorem readField16_aligned {s : State} (h : s.bc.pos = 8) :
    readField16 s = (readBytes 2 s).bind fun bs t => .ok (BitVec.ofNat 16 (leValue bs)) t := by
  have hr := readAlignedByte_reads s
  rw [readField16, readBits_eq (by decide), readBitsLoop_add 8 8, ← readBits_eq (by decide), readBits_eight_aligned h, readBytes]
  cases hb : readAlignedByte s with
  | ok b t =>
    rw [hb] at hr
    obtain ⟨-, rfl, -, -⟩ := hr
    simp only [bind_ok]
    rw [← readBits_eq (by decide), readBits_eight_aligned rfl, readBytes]
    simp only [bind_assoc, bind_ok, readBytes, leValue, Nat.mul_zero, Nat.add_zero, Nat.reducePow]
  | raised e t => rfl
  | fault f => rfl
  | refused r => rfl

/-- Reads of more bytes than the source has left end at its end, aligned (40_bit_cursor R164, R165). -/
theorem readBytes_short {n : Nat} {s : State} (hle : s.bc.next ≤ s.src.length) (hlt : s.src.length < s.bc.next + n) :
    ∃ t, readBytes n s = .raised .unexpectedEndOfStream t ∧ Reads s t ∧ t.bc.pos = 8 ∧ t.bc.next = s.src.length := by
  induction n generalizing s with
  | zero => omega
  | succ n ih =>
    have hr := readAlignedByte_reads s
    cases hb : s.src[s.bc.next]? with
    | none =>
      have hge := List.getElem?_eq_none_iff.1 hb
      rw [readBytes, readAlignedByte_none hb]
      exact ⟨s.align, rfl, Reads.align s, rfl, Nat.le_antisymm hle hge⟩
    | some b =>
      obtain ⟨hin, -⟩ := List.getElem?_eq_some_iff.1 hb
      rw [readAlignedByte_some hb] at hr
      obtain ⟨-, -, hreads, -⟩ := hr
      obtain ⟨t, ht, hreads', hpos, hnext⟩ :=
        ih (s := s.atCursor { cur := b, pos := 8, next := s.bc.next + 1 }) hin (by show s.src.length < s.bc.next + 1 + n; omega)
      exact ⟨t, by rw [readBytes, readAlignedByte_some hb, bind_ok, ht, bind_raised], hreads.trans hreads', hpos, hnext⟩

theorem ofNat_leValue_pair (b0 b1 : Byte) : BitVec.ofNat 16 (leValue [b0, b1]) = b1 ++ b0 := by
  have h0 := b0.isLt
  have h1 := b1.isLt
  apply BitVec.eq_of_toNat_eq
  rw [BitVec.toNat_append, ← Nat.shiftLeft_add_eq_or_of_lt h0, Nat.shiftLeft_eq, BitVec.toNat_ofNat, leValue, leValue, leValue]
  omega

theorem readField16_bytes {s : State} {b0 b1 : Byte} {more : List Byte} (hp : s.bc.pos = 8)
    (h : s.src.drop s.bc.next = b0 :: b1 :: more) :
    readField16 s = .ok (b1 ++ b0) (s.atCursor { cur := b1, pos := 8, next := s.bc.next + 2 }) := by
  obtain ⟨t, (hread : readBytes 2 s = _), hreads, -, hbc, -⟩ := readBytes_drop [b0, b1] (more := more) h
  rw [readField16_aligned hp, hread, bind_ok, ofNat_leValue_pair, hreads.same, hbc b1 rfl]
  rfl

theorem readField16_short {s : State} (hp : s.bc.pos = 8) (hle : s.bc.next ≤ s.src.length) (hlt : s.src.length < s.bc.next + 2) :
    ∃ t, readField16 s = .raised .unexpectedEndOfStream t ∧ Reads s t ∧ t.bc.pos = 8 ∧ t.bc.next = s.src.length := by
  obtain ⟨t, ht, hrest⟩ := readBytes_short hle hlt
  exact ⟨t, by rw [readField16_aligned hp, ht, bind_raised], hrest⟩

/-! ## The stored header -/

theorem elemStoredHdr_complement {len nlen : BitVec 16} (s : State) (h : len ^^^ nlen = 0xFFFF) :
    elemStoredHdr len nlen s = .ok () { s with storedRem := len, eng := .stored } :=
  if_pos (beq_iff_eq.2 h)

theorem elemStoredHdr_mismatch {len nlen : BitVec 16} (s : State) (h : len ^^^ nlen ≠ 0xFFFF) :
    elemStoredHdr len nlen s = .raised .compressAlgorithmError s :=
  if_neg fun hc => h (beq_iff_eq.1 hc)

theorem storedHeader_bytes {s : State} {l0 l1 n0 n1 : Byte} {more : List Byte} (h : s.src.drop s.bc.next = l0 :: l1 :: n0 :: n1 :: more) :
    storedHeader s = elemStoredHdr (l1 ++ l0) (n1 ++ n0) (s.atCursor { cur := n1, pos := 8, next := s.bc.next + 4 }) := by
  have h' : s.src.drop (s.bc.next + 2) = n0 :: n1 :: more := by rw [← List.drop_drop, h]; rfl
  rw [storedHeader, readField16_bytes (s := s.align) rfl h, bind_ok, readField16_bytes rfl h', bind_ok]
  rfl

theorem storedHeader_short {s : State} (hle : s.bc.next ≤ s.src.length) (hlt : s.src.length < s.bc.next + 4) :
    ∃ t, storedHeader s = .raised .unexpectedEndOfStream t ∧ t = s.atCursor t.bc ∧ t.bc.pos = 8 ∧ t.bc.next = s.src.length := by
  by_cases hlen : s.src.length < s.bc.next + 2
  · obtain ⟨t, ht, hreads, hbc⟩ := readField16_short (s := s.align) rfl hle hlen
    exact ⟨t, by rw [storedHeader, ht, bind_raised], hreads.same, hbc⟩
  · have hd : s.src.drop s.bc.next = s.src[s.bc.next] :: s.src[s.bc.next + 1] :: s.src.drop (s.bc.next + 2) := by
      rw [List.drop_eq_getElem_cons (by omega), List.drop_eq_getElem_cons (by omega)]
    obtain ⟨t, ht, hreads, hbc⟩ := readField16_short
      (s := s.align.atCursor { cur := s.src[s.bc.next + 1], pos := 8, next := s.align.bc.next + 2 }) rfl (Nat.le_of_not_lt hlen) hlt
    exact ⟨t, by rw [storedHeader, readField16_bytes (s := s.align) rfl hd, bind_ok, ht, bind_raised], hreads.same, hbc⟩

theorem exec_blockStored (f : Bool) (s : State) : exec (.blockStored f) s = (storedHeader (s.setLast f)).finish := rfl

/-- Settles O37: the header is its four bytes, read from the aligned cursor, and STORED_HDR's check of them. -/
theorem storedBlockHeader : Obligations.StoredBlockHeader := by
  intro s f l0 l1 n0 n1 more
  simp only [exec_blockStored]
  refine ⟨?good, ?bad, ?short⟩
  case good =>
    intro h hok
    rw [storedHeader_bytes (s := s.setLast f) h, elemStoredHdr_complement _ hok]
    rfl
  case bad =>
    intro h hbad
    rw [storedHeader_bytes (s := s.setLast f) h, elemStoredHdr_mismatch _ hbad]
    rfl
  case short =>
    intro hle hlt
    obtain ⟨t, ht, hsame, hbc⟩ := storedHeader_short (s := s.setLast f) hle hlt
    exact ⟨t.latch .unexpectedEndOfStream, by rw [ht, finish_raised], congrArg (State.latch _) hsame, hbc⟩

/-! ## The fixed tables -/

theorem padTo_of_length {n : Nat} {lengths : List Nat} (h : lengths.length = n) : padTo n lengths = lengths := by
  rw [padTo, h, Nat.sub_self, List.replicate_zero, List.append_nil]

theorem fixedLitlenLengths_length : fixedLitlenLengths.length = 288 := by
  simp only [fixedLitlenLengths, List.length_append, List.length_replicate]

theorem fixedDistLengths_length : fixedDistLengths.length = 32 := List.length_replicate

theorem fixedInstall_eq (s : State) :
    fixedInstall s = .ok () { s with
      llLen := fixedLitlenLengths, llN := 288, dLen := fixedDistLengths, dN := 32, eng := .fixedHuffman } := by
  simp only [fixedInstall, State.installTables, fixedLitlenLengths_length, fixedDistLengths_length,
    padTo_of_length fixedLitlenLengths_length, padTo_of_length fixedDistLengths_length]

/-- Settles O38: the fixed lists of lengths fill their arrays, so no zero is padded to them. -/
theorem fixedBlockHeader : Obligations.FixedBlockHeader := by
  intro s f
  show (fixedInstall (s.setLast f)).finish = _
  rw [fixedInstall_eq]
  rfl

end Sys2Proof.Machine
end

section
/-! What the payload's operations keep of the stream: any condition on the cursor and the source alone that a bit read and an alignment keep
(40_bit_cursor R161, R163). One such condition bounds the bits still to come. -/

namespace Sys2Proof.Machine

open Sys2Proof

theorem lenElems_eq_map : lenElems = lenEntries.map fun entry => lenSymbol entry.1 entry.2 := rfl

theorem distElems_eq_map : distElems = distEntries.map fun entry => distSymbol entry.1 entry.2 := rfl

/-- A condition on the cursor and the source alone, kept by a bit read and by an alignment. -/
structure StreamClosed (P : State → Prop) : Prop where
  bit : ∀ {s : State}, P s → Keeps P (readBit s)
  align : ∀ {s : State}, P s → P s.align
  other : ∀ {s t : State}, t.bc = s.bc → t.src = s.src → P s → P t

namespace StreamClosed

variable {P : State → Prop} (hP : StreamClosed P) {s : State}
include hP

/-! ## Reads -/

theorem keeps_readBitsLoop (n : Nat) {s : State} (h : P s) : Keeps P (readBitsLoop n s) := by
  induction n generalizing s with
  | zero => exact h
  | succ n ih => exact Keeps.bind (hP.bit h) fun _ _ h1 => Keeps.bind (ih h1) fun _ _ h2 => h2

theorem keeps_readBits (n : Nat) (h : P s) : Keeps P (readBits n s) := by
  unfold readBits; split
  · trivial
  · exact hP.keeps_readBitsLoop n h

theorem keeps_resolveLoop (codes : List Code) (n L c : Nat) {s : State} (h : P s) : Keeps P (resolveLoop codes n L c s) := by
  induction n generalizing L c s with
  | zero => exact h
  | succ n ih =>
    refine Keeps.bind (hP.bit h) fun _ _ h1 => ?_
    split
    · exact h1
    · exact ih _ _ h1

theorem keeps_resolve (t : CodeTable) (h : P s) : Keeps P (resolve t s) := hP.keeps_resolveLoop _ _ _ _ h

/-! ## Stored, fixed and dynamic headers -/

theorem keeps_readField16 (h : P s) : Keeps P (readField16 s) := Keeps.bind (hP.keeps_readBits 16 h) fun _ _ h1 => h1

theorem keeps_elemStoredHdr (len nlen : BitVec 16) (h : P s) : Keeps P (elemStoredHdr len nlen s) := by
  unfold elemStoredHdr; split
  · exact hP.other (s := s) rfl rfl h
  · exact h

theorem keeps_storedHeader (h : P s) : Keeps P (storedHeader s) :=
  Keeps.bind (hP.keeps_readField16 (hP.align h)) fun _ _ h1 =>
    Keeps.bind (hP.keeps_readField16 h1) fun _ _ h2 => hP.keeps_elemStoredHdr _ _ h2

theorem keeps_appendRepeat (l r : Nat) (h : P s) : Keeps P (appendRepeat l r s) := by
  unfold appendRepeat; split
  · exact h
  · exact hP.other (s := s) rfl rfl h

theorem keeps_clElem (sym : Nat) (h : P s) : Keeps P (clElem sym s) := by
  unfold clElem; split
  case isTrue => exact hP.other (s := s) rfl rfl h
  split
  case isTrue =>
    unfold elemClRep16; split
    · exact h
    · exact Keeps.bind (hP.keeps_readBits 2 h) fun _ _ h1 => hP.keeps_appendRepeat _ _ h1
  split
  case isTrue => exact Keeps.bind (hP.keeps_readBits 3 h) fun _ _ h1 => hP.keeps_appendRepeat _ _ h1
  split
  case isTrue => exact Keeps.bind (hP.keeps_readBits 7 h) fun _ _ h1 => hP.keeps_appendRepeat _ _ h1
  trivial

theorem keeps_readClLens (ks : List Nat) {s : State} (h : P s) : Keeps P (readClLens ks s) := by
  induction ks generalizing s with
  | nil => exact h
  | cons k ks ih => exact Keeps.bind (hP.keeps_readBits 3 h) fun _ t h1 => ih (hP.other (s := t) rfl rfl h1)

theorem keeps_readLengths (t : CodeTable) (n : Nat) {s : State} (h : P s) : Keeps P (readLengths t n s) := by
  induction n generalizing s with
  | zero => trivial
  | succ n ih =>
    unfold readLengths; split
    · exact Keeps.bind (hP.keeps_resolve t h) fun _ _ h1 => Keeps.bind (hP.keeps_clElem _ h1) fun _ _ h2 => ih h2
    · exact h

theorem keeps_installDynamic (ll d : List Nat) (h : P s) : Keeps P (installDynamic ll d s) :=
  keeps_withTable h fun _ _ => keeps_withTable h fun _ _ => hP.other (s := s) rfl rfl h

theorem keeps_elemDynHdr (hlit hdist : BitVec 5) (hclen : BitVec 4) (h : P s) : Keeps P (elemDynHdr hlit hdist hclen s) := by
  unfold elemDynHdr
  simp only
  split
  · exact h
  · exact Keeps.bind (hP.keeps_readClLens _ (hP.other (s := s) rfl rfl h)) fun _ _ h1 => keeps_withTable h1 fun _ _ =>
      Keeps.bind (hP.keeps_readLengths _ _ h1) fun _ _ h2 => hP.keeps_installDynamic _ _ h2

theorem keeps_dynamicHeader (h : P s) : Keeps P (dynamicHeader s) :=
  Keeps.bind (hP.keeps_readBits 5 h) fun _ _ h1 => Keeps.bind (hP.keeps_readBits 5 h1) fun _ _ h2 =>
    Keeps.bind (hP.keeps_readBits 4 h2) fun _ _ h3 => hP.keeps_elemDynHdr _ _ _ h3

theorem keeps_blockElem (bfinal : Bool) (btype : Nat) (h : P s) : Keeps P (blockElem bfinal btype s) := by
  have hlast : P (s.setLast bfinal) := hP.other (s := s) rfl rfl h
  unfold blockElem; split
  · exact hP.keeps_storedHeader hlast
  · exact hP.other (s := s) rfl rfl h
  · exact hP.keeps_dynamicHeader hlast
  · exact hlast

/-! ## Symbols -/

theorem keeps_putAndEmit (b : Byte) (h : P s) : Keeps P (putAndEmit b s) := by
  unfold putAndEmit winPut; split
  · exact hP.other (s := s) rfl rfl h
  · trivial

theorem keeps_distSymbol (base ext : Nat) (h : P s) : Keeps P (distSymbol base ext s) :=
  Keeps.bind (hP.keeps_readBits ext h) fun _ t h1 => hP.other (s := t) rfl rfl h1

theorem keeps_distElem (ds : Nat) (h : P s) : Keeps P (distElem ds s) := by
  unfold distElem; split
  · next elem he =>
    obtain ⟨⟨base, ext⟩, -, rfl⟩ := List.mem_map.1 (distElems_eq_map ▸ List.mem_of_getElem? he)
    exact hP.keeps_distSymbol base ext h
  · exact h

theorem keeps_lenSymbol (base ext : Nat) (h : P s) : Keeps P (lenSymbol base ext s) := by
  refine Keeps.bind (hP.keeps_readBits ext h) fun e t h1 => ?_
  have h2 : P { t with scr := { t.scr with len := base + e } } := hP.other (s := t) rfl rfl h1
  exact Keeps.bind (keeps_withTable h2 fun tab _ => hP.keeps_resolve tab h2) fun ds _ h3 => hP.keeps_distElem ds h3

theorem keeps_litlenElem (sym : Nat) (h : P s) : Keeps P (litlenElem sym s) := by
  unfold litlenElem; split
  case isTrue => exact Keeps.bind (hP.keeps_putAndEmit _ h) fun _ _ h1 => h1
  split
  case isTrue => exact hP.other (s := s) rfl rfl h
  split
  · next elem he =>
    obtain ⟨⟨base, ext⟩, -, rfl⟩ := List.mem_map.1 (lenElems_eq_map ▸ List.mem_of_getElem? he)
    exact Keeps.bind (hP.keeps_lenSymbol base ext h) fun _ _ h1 => h1
  · exact h

end StreamClosed

/-! ## The bits still to come -/

/-- At most `n` bits are still to come. -/
def Within (n : Nat) (s : State) : Prop := s.upcoming.length ≤ n

theorem flatMap_byteBits_length (bs : List Byte) : (bs.flatMap byteBits).length = 8 * bs.length := by
  simp [List.length_flatMap, Nat.mul_comm]

theorem upcoming_length (s : State) : s.upcoming.length = (8 - s.bc.pos.val) + 8 * (s.src.length - s.bc.next) := by
  rw [State.upcoming, List.length_append, List.length_drop, byteBits_length, flatMap_byteBits_length, List.length_drop]

/-- A bit read consumes one bit, or raises with nothing consumed (40_bit_cursor R161). -/
theorem readBit_length (s : State) :
    (readBit s).Sat False (fun _ t => t.upcoming.length + 1 = s.upcoming.length) (fun _ t => t = s) := by
  cases hu : s.upcoming with
  | nil => rw [readBit_end hu]; exact rfl
  | cons b rest =>
    obtain ⟨t, ht, hrest, -⟩ := readBit_upcoming hu
    rw [ht, ← hrest]; exact rfl

theorem streamClosed_within (n : Nat) : StreamClosed (Within n) where
  bit {s} h := by
    have hle : s.upcoming.length ≤ n := h
    exact Sat.mono_stop ((readBit_length s).weaken (fun _ t ht => show t.upcoming.length ≤ n by omega) fun _ _ ht => ht ▸ h)
  align {s} h := by
    have hle : s.upcoming.length ≤ n := h
    rw [upcoming_length] at hle
    rw [Within, upcoming_length, align_bc, align_src]
    exact Nat.le_trans (by simp) hle
  other hbc hsrc h := by rw [Within, State.upcoming, hbc, hsrc]; exact h

/-- The operation consumes a bit of the stream where it ends well. -/
abbrev Consumes {α : Type} (s : State) (r : Res α) : Prop :=
  r.Sat True (fun _ t => t.upcoming.length < s.upcoming.length) (fun _ _ => True)

theorem Consumes.bind {α β : Type} {s : State} {r : Res α} {k : α → State → Res β} (h : Consumes s r)
    (hk : ∀ a t, Keeps (Within t.upcoming.length) (k a t)) : Consumes s (r.bind k) :=
  Res.Sat.bind h fun a t ht => (hk a t).weaken (fun _ _ hu => Nat.lt_of_le_of_lt hu ht) fun _ _ _ => trivial

theorem readBit_consumes (s : State) : Consumes s (readBit s) :=
  Sat.mono_stop ((readBit_length s).weaken (fun _ _ ht => Nat.lt_of_succ_le (Nat.le_of_eq ht)) fun _ _ _ => trivial)

theorem blockHeader_consumes (s : State) : Consumes s (blockHeader s) :=
  (readBit_consumes s).bind fun bfinal t => Keeps.bind ((streamClosed_within _).keeps_readBits 2 (Nat.le_refl t.upcoming.length))
    fun btype _ h => (streamClosed_within _).keeps_blockElem bfinal btype h

/-- A symbol is decoded from one bit at least: an empty table raises (42_symbol_resolver R213). -/
theorem resolve_consumes (tab : CodeTable) (s : State) : Consumes s (resolve tab s) := by
  unfold resolve
  cases tab.maxLen with
  | zero => trivial
  | succ n =>
    refine (readBit_consumes s).bind fun b t => ?_
    split
    · exact Nat.le_refl _
    · exact (streamClosed_within _).keeps_resolveLoop _ _ _ _ (Nat.le_refl _)

theorem decodeLitlen_consumes (s : State) : Consumes s (decodeLitlen s) := by
  unfold decodeLitlen withTable; split
  · trivial
  · exact resolve_consumes _ s

end Sys2Proof.Machine
end

section
/-! The passes of `Produce` (44_inflate_blocks R270, R293). A pass that gives no byte consumes a bit, or ends a stored block, which the next
pass cannot do again; so the bound on the passes is never used up, and two bounds above the passes left give the same. -/

namespace Sys2Proof.Machine

open Sys2Proof

/-! ## Passes that give no byte -/

/-- What a pass that gives no byte makes smaller: the bits still to come, each for two passes, and the end of a stored block. -/
def State.passWeight (s : State) : Nat := 2 * s.upcoming.length + if s.eng = .stored then 1 else 0

theorem passWeight_lt_of_consumed {s t : State} (h : t.upcoming.length < s.upcoming.length) : t.passWeight < s.passWeight := by
  unfold State.passWeight
  split <;> split <;> omega

theorem passWeight_blockEnd {s : State} (h : s.eng = .stored) : s.blockEnd.passWeight < s.passWeight := by
  have hu : s.blockEnd.upcoming = s.upcoming := rfl
  have he : s.blockEnd.eng ≠ .stored := by rw [blockEnd_eng]; split <;> decide
  rw [State.passWeight, State.passWeight, if_pos h, if_neg he, hu]
  exact Nat.lt_succ_self _

theorem passWeight_lt_produceBound (s : State) : s.passWeight + 1 < s.produceBound := by
  rw [State.passWeight, upcoming_length, State.produceBound]
  split <;> omega

theorem sat_trivial {α : Type} (r : Res α) : r.Sat True (fun _ _ => True) (fun _ _ => True) := by
  cases r <;> trivial

/-- A Huffman step that gives no byte consumes a bit: a copied byte is one (45_inflate_symbols R300, R307). -/
theorem huffStep_consumes (s : State) :
    (huffStep s).Sat True (fun r t => r = none → t.upcoming.length < s.upcoming.length) (fun _ _ => True) := by
  unfold huffStep; split
  · exact (sat_trivial (copyStep s)).bind fun b _ _ (hb : some b = none) => nomatch hb
  · exact ((decodeLitlen_consumes s).bind fun sym _ => (streamClosed_within _).keeps_litlenElem sym (Nat.le_refl _)).weaken
      (fun _ _ h _ => h) fun _ _ h => h

theorem producePass_weight_of_huffman {s : State} (h : s.eng = .fixedHuffman ∨ s.eng = .dynamicHuffman) :
    (producePass s).Sat True (fun r t => r = none → t.passWeight < s.passWeight) (fun _ _ => True) := by
  rcases h with h | h <;>
  · simp only [producePass, h]
    refine (huffStep_consumes s).bind fun r t ht => ?_
    cases r with
    | some b => exact fun hb => nomatch hb
    | none => exact fun _ => passWeight_lt_of_consumed (ht rfl)

/-- Every pass of `Produce` returns, stops, or makes the weight smaller. -/
theorem producePass_weight (s : State) :
    (producePass s).Sat True (fun r t => r = none → t.passWeight < s.passWeight) (fun _ _ => True) := by
  cases heng : s.eng
  case fixedHuffman => exact producePass_weight_of_huffman (.inl heng)
  case dynamicHuffman => exact producePass_weight_of_huffman (.inr heng)
  all_goals simp only [producePass, heng]
  case blockFree => exact Res.Sat.bind (blockHeader_consumes s) fun _ _ h _ => passWeight_lt_of_consumed h
  case stored =>
    split
    · exact fun _ => passWeight_blockEnd heng
    · exact (sat_trivial (storedByte s)).bind fun b _ _ (hb : some (some b) = none) => nomatch hb
  case lastBlockFree => exact fun h => nomatch h
  case trailingBits => trivial
  case trailingBytes => trivial

/-- Two bounds above the weight give the same: no state uses either up. -/
theorem produce_eq_of_passWeight_lt {n m : Nat} {s : State} (hn : s.passWeight < n) (hm : s.passWeight < m) :
    produce n s = produce m s := by
  induction n generalizing m s with
  | zero => exact absurd hn (Nat.not_lt_zero _)
  | succ n ih =>
    obtain ⟨m, rfl⟩ := Nat.exists_eq_succ_of_ne_zero (Nat.ne_zero_of_lt hm)
    have hw := producePass_weight s
    rw [produce, produce]
    cases hp : producePass s with
    | ok r t =>
      cases r with
      | some x => rfl
      | none =>
        rw [hp] at hw
        have ht := hw rfl
        exact ih (by omega) (by omega)
    | raised e t => rfl
    | fault f => rfl
    | refused r => rfl

/-! ## What the first pass leaves to the rest -/

variable {s t : State}

theorem produce_of_byte {x : Option Byte} (h : producePass s = .ok (some x) t) : produce s.produceBound s = .ok x t := by
  rw [State.produceBound, produce, h, bind_ok]

theorem produce_of_raised {e : StreamError} (h : producePass s = .raised e t) : produce s.produceBound s = .raised e t := by
  rw [State.produceBound, produce, h, bind_raised]

/-- After a pass that gives no byte, `Produce` goes on as from the state it leaves. -/
theorem produce_of_pass (h : producePass s = .ok none t) :
    produce s.produceBound s = produce t.produceBound t := by
  have hw := producePass_weight s
  rw [h] at hw
  have hs := passWeight_lt_produceBound s
  have ht := passWeight_lt_produceBound t
  have hlt := hw rfl
  have hb : s.produceBound = s.produceBound - 1 + 1 := by omega
  rw [hb, produce, h, bind_ok]
  exact produce_eq_of_passWeight_lt (by omega) (by omega)

/-! ## READ in phase Body -/

theorem exec_read_body (arg : BitVec 24) (h : s.phase = .body) :
    exec (.read arg) s = ((produce s.produceBound s).bind readEnd).finish := by
  show execRead arg s = _
  simp only [execRead, h, readBody, readHeader]
  rfl

theorem exec_read_of_byte {b : Byte} (arg : BitVec 24) (hphase : s.phase = .body) (h : producePass s = .ok (some (some b)) t) :
    exec (.read arg) s = .next (t.respond (.data b)) := by
  rw [exec_read_body arg hphase, produce_of_byte h]
  rfl

theorem exec_read_of_raised {e : StreamError} (arg : BitVec 24) (hphase : s.phase = .body) (h : producePass s = .raised e t) :
    exec (.read arg) s = .next (t.latch e) := by
  rw [exec_read_body arg hphase, produce_of_raised h]
  rfl

/-- A READ whose first pass gives no byte is a READ of the state that pass leaves (44_inflate_blocks R270). -/
theorem exec_read_of_pass (arg : BitVec 24) (hphase : s.phase = .body) (hphase' : t.phase = .body)
    (h : producePass s = .ok none t) : exec (.read arg) s = exec (.read arg) t := by
  rw [exec_read_body arg hphase, exec_read_body arg hphase', produce_of_pass h]

/-! ## A stored block -/

theorem elemStoredByte_held (b : Byte) (hrem : s.storedRem ≠ 0) (hacq : s.win.acq = true) :
    elemStoredByte b s = .ok () { (s.putByte b).emit b with storedRem := s.storedRem - 1 } := by
  rw [elemStoredByte, if_neg hrem, putAndEmit, winPut_held b hacq]
  rfl

theorem storedByte_some {b : Byte} (hrem : s.storedRem ≠ 0) (hacq : s.win.acq = true) (hb : s.src[s.bc.next]? = some b) :
    storedByte s = .ok b { s with
      bc := { cur := b, pos := 8, next := s.bc.next + 1 }
      win := s.win.put b
      out := s.out ++ [b]
      outCount := s.outCount + 1
      storedRem := s.storedRem - 1 } := by
  rw [storedByte, readAlignedByte_some hb, bind_ok, elemStoredByte_held]
  · rfl
  · exact hrem
  · exact hacq

theorem storedByte_none (hb : s.src[s.bc.next]? = none) : storedByte s = .raised .unexpectedEndOfStream s.align := by
  rw [storedByte, readAlignedByte_none hb, bind_raised]

theorem producePass_stored (heng : s.eng = .stored) (hrem : s.storedRem ≠ 0) :
    producePass s = (storedByte s).bind fun b s1 => .ok (some (some b)) s1 := by
  simp only [producePass, heng, if_neg hrem]

theorem producePass_stored_end (heng : s.eng = .stored) (hrem : s.storedRem = 0) : producePass s = .ok none s.blockEnd := by
  simp only [producePass, heng, if_pos hrem]

theorem blockEnd_of_last {b : Bool} (h : s.last = b) : s.blockEnd = { s with eng := if b then .lastBlockFree else .blockFree } := by
  rw [State.blockEnd, h]

/-- Settles O34: the first pass reads the byte, or ends the block and leaves the READ to the state after it. -/
theorem readStoredByte : Obligations.ReadStoredByte := by
  intro s arg hphase heng
  have hend (hrem : s.storedRem = 0) : exec (.read arg) s = exec (.read arg) s.blockEnd :=
    exec_read_of_pass arg hphase hphase (producePass_stored_end heng hrem)
  refine ⟨?byte, ?sourceEnd, ?notLast, ?last⟩
  case byte =>
    intro b hrem hacq hb
    exact exec_read_of_byte arg hphase (by rw [producePass_stored heng hrem, storedByte_some hrem hacq hb, bind_ok])
  case sourceEnd =>
    intro hrem hb
    exact exec_read_of_raised (t := s.align) arg hphase (by rw [producePass_stored heng hrem, storedByte_none hb, bind_raised])
  case notLast => exact fun hrem hlast => by rw [hend hrem, blockEnd_of_last hlast]; rfl
  case last => exact fun hrem hlast => by rw [hend hrem, blockEnd_of_last hlast]; rfl

end Sys2Proof.Machine
end

section
/-! READ in a Huffman block while a copy is outstanding (45_inflate_symbols R300, R307, R308): the first pass of `Produce` is one `WinCopy`
at the pending distance, whose byte is emitted, or whose error stops the READ. -/

namespace Sys2Proof.Machine

open Sys2Proof

variable {s t : State}

/-! ## What a copy answers in a held window -/

theorem legal_eq_false_iff (w : Window) (d : Nat) : w.legal d = false ↔ d = 0 ∨ w.maxDist < d ∨ w.filled < d := by
  rw [← Bool.not_eq_true, legal_iff]
  omega

theorem winCopy_some {d : Nat} {b : Byte} (hacq : s.win.acq = true) (hd : s.win.legal d = true) (hb : s.win.look d = some b) :
    winCopy d s = .ok b (s.putByte b) := by
  rw [winCopy, if_pos hacq, if_pos hd, hb]

theorem winCopy_illegal {d : Nat} (hacq : s.win.acq = true) (hd : s.win.legal d = false) :
    winCopy d s = .raised .illegalDistance s := by
  rw [winCopy, if_pos hacq, hd, if_neg Bool.false_ne_true]

/-! ## The pass of an outstanding copy -/

theorem copyStep_of_byte {b : Byte} (h : winCopy s.pendDist s = .ok b t) :
    copyStep s = .ok b { t.emit b with pendLen := t.pendLen - 1 } := by
  rw [copyStep, h, bind_ok, emit_pendLen]

theorem copyStep_of_raised {e : StreamError} (h : winCopy s.pendDist s = .raised e t) : copyStep s = .raised e t := by
  rw [copyStep, h, bind_raised]

theorem producePass_huffman (heng : s.eng = .fixedHuffman ∨ s.eng = .dynamicHuffman) :
    producePass s = (huffStep s).bind fun r s1 => .ok (r.map some) s1 := by
  rcases heng with heng | heng <;>
  · simp only [producePass, heng]
    rcases huffStep s with ⟨_ | b, s1⟩ | _ | _ | _ <;> rfl

/-- While a copy is outstanding a pass decodes no symbol: it is the next byte of the copy (R300). -/
theorem producePass_copying (heng : s.eng = .fixedHuffman ∨ s.eng = .dynamicHuffman) (hlen : 0 < s.pendLen) :
    producePass s = (copyStep s).bind fun b s1 => .ok (some (some b)) s1 := by
  rw [producePass_huffman heng, huffStep, if_pos hlen]
  cases copyStep s <;> rfl

/-- Settles O33: the first pass is the copy, so its byte or its error is the READ's answer. -/
theorem readCopiesOneByte : Obligations.ReadCopiesOneByte := by
  intro s arg hphase heng hlen hacq
  have hpass := producePass_copying heng hlen
  refine ⟨?legal, ?illegal⟩
  case legal =>
    intro b hpos hmax hfilled hb
    have hcopy := winCopy_some hacq ((legal_iff _ _).2 ⟨hpos, hmax, hfilled⟩) hb
    rw [copyStep_of_byte hcopy, bind_ok] at hpass
    exact exec_read_of_byte arg hphase hpass
  case illegal =>
    intro hd
    have hcopy := winCopy_illegal hacq ((legal_eq_false_iff _ _).2 hd)
    rw [copyStep_of_raised hcopy, bind_raised] at hpass
    exact exec_read_of_raised arg hphase hpass

end Sys2Proof.Machine
end

section
/-! Header bytes taken from the source one after the other (46_frame_parser R402, R410 to R417). `Takes s r g`: the operation that answers `r`
in `s` reads exactly the bytes `g`, whatever follows them, or ends aligned at the end of a source that holds only the first of them. A
sequence of operations takes the bytes of the one and then of the other, so a header takes its fields in order. -/

namespace Sys2Proof.Machine

open Sys2Proof

/-! ## The state after some bytes -/

/-- The source bytes not pulled yet. -/
abbrev State.unread (s : State) : List Byte := s.src.drop s.bc.next

/-- The state once the bytes `g` have been read, each with `ReadAlignedByte` (40_bit_cursor R164). -/
def State.afterBytes : List Byte → State → State
  | [], s => s
  | b :: bs, s => State.afterBytes bs (s.atCursor { cur := b, pos := 8, next := s.bc.next + 1 })

@[simp] theorem afterBytes_nil (s : State) : s.afterBytes [] = s := rfl

theorem afterBytes_append (g h : List Byte) (s : State) : s.afterBytes (g ++ h) = (s.afterBytes g).afterBytes h := by
  induction g generalizing s with
  | nil => rfl
  | cons b g ih => exact ih _

theorem afterBytes_same (g : List Byte) (s : State) : s.afterBytes g = s.atCursor (s.afterBytes g).bc := by
  induction g generalizing s with
  | nil => rfl
  | cons b g ih => exact ih _

theorem afterBytes_next (g : List Byte) (s : State) : (s.afterBytes g).bc.next = s.bc.next + g.length := by
  induction g generalizing s with
  | nil => rfl
  | cons b g ih => rw [State.afterBytes, ih, List.length_cons, Nat.add_assoc, Nat.add_comm 1]

@[simp] theorem afterBytes_src (g : List Byte) (s : State) : (s.afterBytes g).src = s.src := by
  rw [afterBytes_same]

theorem afterBytes_concat (g : List Byte) (b : Byte) (s : State) :
    s.afterBytes (g ++ [b]) = s.atCursor { cur := b, pos := 8, next := s.bc.next + (g.length + 1) } := by
  rw [afterBytes_append, State.afterBytes, afterBytes_nil, afterBytes_next, afterBytes_same, Nat.add_assoc]

theorem afterBytes_pos {g : List Byte} (h : g ≠ []) (s : State) : (s.afterBytes g).bc.pos = 8 := by
  rw [← List.dropLast_append_getLast h, afterBytes_concat]

theorem afterBytes_unread {s : State} {g more : List Byte} (h : s.unread = g ++ more) : (s.afterBytes g).unread = more := by
  rw [State.unread] at h
  rw [State.unread, afterBytes_src, afterBytes_next, ← List.drop_drop, h, List.drop_left]

theorem readAlignedByte_cons {s : State} {b : Byte} {more : List Byte} (h : s.unread = b :: more) :
    readAlignedByte s = .ok b (s.afterBytes [b]) :=
  readAlignedByte_some (by rw [← List.head?_drop]; exact congrArg List.head? h)

theorem readAlignedByte_end {s : State} (h : s.unread = []) : readAlignedByte s = .raised .unexpectedEndOfStream s.align :=
  readAlignedByte_none (by rw [← List.head?_drop]; exact congrArg List.head? h)

/-- The end of the source, reached by reading all of it. -/
theorem afterBytes_unread_upcoming (s : State) : (s.afterBytes s.unread).align.upcoming = [] := by
  rw [upcoming_aligned rfl]
  show (State.unread (s.afterBytes s.unread)).flatMap byteBits = []
  rw [afterBytes_unread (more := []) (List.append_nil _).symm, List.flatMap_nil]

theorem afterBytes_align_same (g : List Byte) (s : State) : (s.afterBytes g).align = s.atCursor (s.afterBytes g).align.bc := by
  rw [State.align, afterBytes_same]

/-! ## Operations that take bytes -/

variable {α β : Type}

/-- An operation run in `s` that answers `r` takes the bytes `g` and gives `a`: it reads exactly them where the source goes on with them, and
raises UnexpectedEndOfStream at the end of a source that goes on with only the first of them. -/
structure Takes (s : State) (r : Res α) (a : α) (g : List Byte) : Prop where
  whole : ∀ more, s.unread = g ++ more → r = .ok a (s.afterBytes g)
  short : ∀ b q, g = s.unread ++ b :: q → r = .raised .unexpectedEndOfStream (s.afterBytes s.unread).align

theorem Takes.nothing (a : α) (s : State) : Takes s (.ok a s) a [] where
  whole := fun _ _ => rfl
  short := fun b q h => by simp at h

/-- Two operations one after the other take the bytes of both. -/
theorem Takes.bind {s : State} {r : Res α} {a : α} {b : β} {g h : List Byte} {k : α → State → Res β} (hr : Takes s r a g)
    (hk : ∀ more, s.unread = g ++ more → Takes (s.afterBytes g) (k a (s.afterBytes g)) b h) : Takes s (r.bind k) b (g ++ h) where
  whole := fun more hs => by
    have hs' : s.unread = g ++ (h ++ more) := by rw [hs, List.append_assoc]
    rw [hr.whole _ hs', bind_ok, (hk _ hs').whole more (afterBytes_unread hs'), afterBytes_append]
  short := fun c q hs => by
    rcases List.append_eq_append_iff.1 hs with ⟨p, hp, hh⟩ | ⟨p, hg, hh⟩
    · have hu := afterBytes_unread hp
      rw [hr.whole p hp, bind_ok, (hk p hp).short c q (by rw [hu, hh]), hu, ← afterBytes_append, ← hp]
    · cases p with
      | nil =>
        rw [List.append_nil] at hg
        have hp : s.unread = g ++ [] := by rw [hg, List.append_nil]
        have hu := afterBytes_unread hp
        rw [hr.whole [] hp, bind_ok, (hk [] hp).short c q (by rw [hu, hh]; rfl), hu, afterBytes_nil, hg]
      | cons x p => rw [hr.short x p hg, bind_raised]

/-- A source that ends among the bytes an operation takes fails at its end (46_frame_parser R400). -/
theorem Takes.fails_at_end {s : State} {r : Res α} {a : α} {g p : List Byte} (h : Takes s r a g) (hs : s.unread = p) (hp : p <+: g)
    (hne : p ≠ g) :
    ∃ u, r = .raised .unexpectedEndOfStream u ∧ u = s.atCursor u.bc ∧ u.bc.pos = 8 ∧ u.upcoming = [] := by
  subst hs
  obtain ⟨q, hq⟩ := hp
  cases q with
  | nil => exact absurd ((List.append_nil _).symm.trans hq) hne
  | cons b q => exact ⟨_, h.short b q hq.symm, afterBytes_align_same _ s, rfl, afterBytes_unread_upcoming s⟩

theorem takes_readAlignedByte (b : Byte) (s : State) : Takes s (readAlignedByte s) b [b] where
  whole := fun _ h => readAlignedByte_cons h
  short := fun c q h => by
    have hu : s.unread = [] := by
      cases hs : s.unread with
      | nil => rfl
      | cons x xs => simp [hs] at h
    rw [readAlignedByte_end hu, hu, afterBytes_nil]

theorem takes_readBytes (bs : List Byte) (s : State) : Takes s (readBytes bs.length s) bs bs := by
  induction bs generalizing s with
  | nil => exact .nothing [] s
  | cons b bs ih =>
    have h := (takes_readAlignedByte b s).bind (k := fun b s1 => (readBytes bs.length s1).bind fun bs s2 => .ok (b :: bs) s2)
      fun _ _ => (ih _).bind fun _ _ => .nothing (b :: bs) _
    rwa [List.append_nil] at h

/-! ## The fields of the gzip header -/

theorem takes_skipBytes {n : Nat} {g : List Byte} (h : g.length = n) (s : State) : Takes s (skipBytes n s) () g := by
  subst h
  induction g generalizing s with
  | nil => exact .nothing () s
  | cons b g ih => exact (takes_readAlignedByte b s).bind fun _ _ => ih _

/-- A string ends at its first 0x00 (46_frame_parser R415); the bound is not used up, as each byte of it is one not yet pulled (log 17). -/
theorem takes_skipString {n : Nat} {name : List Byte} {s : State} (hname : ∀ b ∈ name, b ≠ 0) (hn : s.unread.length < n) :
    Takes s (skipString n s) () (name ++ [0]) := by
  induction name generalizing n s with
  | nil =>
    obtain ⟨n, rfl⟩ := Nat.exists_eq_succ_of_ne_zero (Nat.ne_zero_of_lt hn)
    exact (takes_readAlignedByte 0 s).bind (h := []) fun _ _ => .nothing () _
  | cons b name ih =>
    obtain ⟨n, rfl⟩ := Nat.exists_eq_succ_of_ne_zero (Nat.ne_zero_of_lt hn)
    refine (takes_readAlignedByte b s).bind (h := name ++ [0]) fun more hs => ?_
    rw [if_neg (hname b List.mem_cons_self)]
    refine ih (fun c hc => hname c (List.mem_cons_of_mem b hc)) ?_
    rw [afterBytes_unread hs]
    rw [hs, List.length_append, List.length_singleton] at hn
    omega

theorem unread_length_lt_stringBound (s : State) : s.unread.length < s.stringBound := by
  rw [State.unread, List.length_drop, State.stringBound]
  exact Nat.lt_succ_self _

theorem takes_skipExtra {xs : List Byte} {x0 x1 : Byte} (h : xs.length = x0.toNat + 256 * x1.toNat) (s : State) :
    Takes s (skipExtra s) () (x0 :: x1 :: xs) := by
  refine (takes_readBytes [x0, x1] s).bind (h := xs) fun _ _ => ?_
  exact takes_skipBytes h _

theorem takes_optionalField {present : Bool} {skip : State → Res Unit} {g : List Byte} {s : State} (h : Takes s (skip s) () g) :
    Takes s (optionalField present skip s) () (if present then g else []) := by
  cases present with
  | true => exact h
  | false => exact .nothing () s

/-- The fields after FLG take the bytes of a gzip tail (46_frame_parser R413 to R417). -/
theorem takes_gzipFields {flg : Byte} {g : List Byte} (h : GzipTail flg g) (s : State) : Takes s (gzipFields flg s) () g := by
  obtain ⟨six, xs, name, comment, crc, x0, x1, hsix, hxs, hname, hcomment, hcrc, rfl⟩ := h
  simp only [List.append_assoc]
  refine (takes_skipBytes hsix s).bind fun _ _ => ?_
  refine (takes_optionalField (takes_skipExtra hxs _)).bind fun _ _ => ?_
  refine (takes_optionalField (takes_skipString hname (unread_length_lt_stringBound _))).bind fun _ _ => ?_
  refine (takes_optionalField (takes_skipString hcomment (unread_length_lt_stringBound _))).bind fun _ _ => ?_
  exact takes_optionalField (takes_skipBytes hcrc _)

end Sys2Proof.Machine
end

section
/-! The container headers (46_frame_parser sections 2 and 3): the header checks as arithmetic on the bytes, what ZLIB_HDR and GZIP_HDR do, and
READ in phase Header, which is a READ in Body of the state its header leaves. -/

namespace Sys2Proof.Machine

open Sys2Proof

variable {s t : State}

/-! ## READ in phase Header (47_host_commands R446) -/

theorem exec_read_header (arg : BitVec 24) (hphase : s.phase = .header) :
    exec (.read arg) s
      = ((frameHeader s).bind fun _ u => (produce u.produceBound u).bind readEnd).finish := by
  show execRead arg s = _
  simp only [execRead, hphase, readBody, readHeader, if_pos]

/-- A READ whose header is read to its end goes on as a READ in Body. -/
theorem exec_read_of_header {f : Frame} (arg : BitVec 24) (hphase : s.phase = .header) (hframe : s.frame = f)
    (h : headerOf f s = .ok () t) :
    exec (.read arg) s = exec (.read arg) { t with phase := .body } := by
  rw [exec_read_header arg hphase, frameHeader, hframe, h, exec_read_body arg rfl, bind_ok, bind_ok]

theorem exec_read_of_header_raised {f : Frame} {e : StreamError} (arg : BitVec 24) (hphase : s.phase = .header) (hframe : s.frame = f)
    (h : headerOf f s = .raised e t) : exec (.read arg) s = .next (failedWith e t) := by
  rw [exec_read_header arg hphase, frameHeader, hframe, h]
  rfl

/-! ## Fields of a header value as numbers -/

theorem toNat_bitField {w : Nat} (v : BitVec w) (start len : Nat) :
    (v.extractLsb' start len).toNat = v.toNat / 2 ^ start % 2 ^ len := by
  rw [BitVec.extractLsb'_toNat, Nat.shiftRight_eq_div_pow]

theorem zlibCM_eq (h : BitVec 16) : zlibCM h = h.toNat / 256 % 16 := toNat_bitField h 8 4

theorem zlibCINFO_eq (h : BitVec 16) : zlibCINFO h = h.toNat / 4096 := by
  have hlt := h.isLt
  rw [zlibCINFO, toNat_bitField]
  omega

/-- The four checks (46_frame_parser R403 to R406). -/
theorem zlibHeaderOk_iff (h : BitVec 16) :
    zlibHeaderOk h = true ↔ h.toNat % 31 = 0 ∧ h.toNat / 256 % 16 = 8 ∧ h.toNat / 4096 < 8 ∧ h.getLsbD 5 = false := by
  rw [zlibHeaderOk, zlibCM_eq, zlibCINFO_eq, zlibFDICT]
  simp only [Bool.and_eq_true, beq_iff_eq, decide_eq_true_eq, Bool.not_eq_true', and_assoc]

theorem zlibValue_toNat (cmf flg : Byte) : (zlibValue cmf flg).toNat = cmf.toNat * 256 + flg.toNat := by
  have hc := cmf.isLt
  have hf := flg.isLt
  rw [zlibValue, BitVec.toNat_ofNat]
  omega

/-- FDICT of the two bytes is bit 5 of FLG (30_encoding R117). -/
theorem zlibValue_fdict (cmf flg : Byte) : (zlibValue cmf flg).getLsbD 5 = flg.getLsbD 5 := by
  have happend : zlibValue cmf flg = cmf ++ flg := by
    rw [← ofNat_leValue_pair, zlibValue, leValue, leValue, leValue, Nat.mul_zero, Nat.add_zero, Nat.add_comm, Nat.mul_comm]
  rw [happend, BitVec.getLsbD_append, if_pos (by decide)]

/-- The checks on the bytes CMF and FLG. -/
theorem zlibHeaderOk_zlibValue (cmf flg : Byte) :
    zlibHeaderOk (zlibValue cmf flg) = true
      ↔ (cmf.toNat * 256 + flg.toNat) % 31 = 0 ∧ cmf.toNat % 16 = 8 ∧ cmf.toNat / 16 < 8 ∧ flg.getLsbD 5 = false := by
  have hf := flg.isLt
  have hcm : (cmf.toNat * 256 + flg.toNat) / 256 = cmf.toNat := by omega
  have hcinfo : (cmf.toNat * 256 + flg.toNat) / 4096 = cmf.toNat / 16 := by omega
  rw [zlibHeaderOk_iff, zlibValue_toNat, zlibValue_fdict, hcm, hcinfo]

theorem zlibWindow_eq (h : BitVec 16) : zlibWindow h = 2 ^ (h.toNat / 4096 + 8) := by
  rw [zlibWindow, zlibCINFO_eq, Nat.one_shiftLeft]

theorem zlibWindow_zlibValue (cmf flg : Byte) : zlibWindow (zlibValue cmf flg) = 2 ^ (cmf.toNat / 16 + 8) := by
  have hf := flg.isLt
  have hcinfo : (cmf.toNat * 256 + flg.toNat) / 4096 = cmf.toNat / 16 := by omega
  rw [zlibWindow_eq, zlibValue_toNat, hcinfo]

/-! ## The zlib header -/

theorem exec_zlibHdr (h : BitVec 16) (s : State) : exec (.zlibHdr h) s = (elemZlibHdr h s).finish := rfl

theorem elemZlibHdr_ok {h : BitVec 16} (s : State) (hok : zlibHeaderOk h = true) :
    elemZlibHdr h s = .ok () (s.createWindow (zlibWindow h)) := if_pos hok

theorem elemZlibHdr_bad {h : BitVec 16} (s : State) (hbad : ¬ zlibHeaderOk h = true) :
    elemZlibHdr h s = .raised .compressAlgorithmError s := if_neg hbad

theorem zlibHeader_bytes {cmf flg : Byte} {more : List Byte} (h : s.unread = cmf :: flg :: more) :
    zlibHeader s = elemZlibHdr (zlibValue cmf flg) (s.afterBytes [cmf, flg]) := by
  rw [zlibHeader, readAlignedByte_cons h, bind_ok, readAlignedByte_cons (afterBytes_unread (g := [cmf]) h), bind_ok]
  rfl

theorem zlibHeader_short (h : s.unread.length < 2) :
    zlibHeader s = .raised .unexpectedEndOfStream (s.afterBytes s.unread).align := by
  cases hu : s.unread with
  | nil => rw [zlibHeader, readAlignedByte_end hu, bind_raised, afterBytes_nil]
  | cons b more =>
    cases more with
    | nil => rw [zlibHeader, readAlignedByte_cons hu, bind_ok, readAlignedByte_end (afterBytes_unread (g := [b]) hu), bind_raised]
    | cons c more => rw [hu, List.length_cons, List.length_cons] at h; omega

/-- Settles O46 (the plain name is the function of the model): both halves are ZLIB_HDR, whose four checks are arithmetic on the header
value; READ has read its two bytes. -/
theorem zlibHeader_holds : Obligations.ZlibHeader := by
  refine ⟨fun s h => ⟨fun hok => ?elemOk, fun hbad => ?elemBad⟩, fun s arg hphase hframe =>
    ⟨fun cmf flg more hs => ⟨fun hok => ?readOk, fun hbad => ?readBad⟩, fun hshort => ?readShort⟩⟩
  case elemOk => rw [exec_zlibHdr, elemZlibHdr_ok s ((zlibHeaderOk_iff h).2 hok), zlibWindow_eq]; rfl
  case elemBad => rw [exec_zlibHdr, elemZlibHdr_bad s (mt (zlibHeaderOk_iff h).1 hbad)]; rfl
  case readOk =>
    have hhdr := (zlibHeader_bytes hs).trans (elemZlibHdr_ok _ ((zlibHeaderOk_zlibValue cmf flg).2 hok))
    rw [exec_read_of_header arg hphase hframe hhdr, zlibWindow_zlibValue]
    rfl
  case readBad =>
    have hhdr := (zlibHeader_bytes hs).trans (elemZlibHdr_bad _ (mt (zlibHeaderOk_zlibValue cmf flg).1 hbad))
    exact exec_read_of_header_raised arg hphase hframe hhdr
  case readShort =>
    exact ⟨_, exec_read_of_header_raised arg hphase hframe (zlibHeader_short hshort),
      congrArg (failedWith _) (afterBytes_align_same _ s), rfl, afterBytes_unread_upcoming s⟩

/-! ## The gzip header's first four bytes -/

theorem gzipByte_toNat (start : BitVec 32) (k : Nat) : (gzipByte start k).toNat = start.toNat / 2 ^ (8 * k) % 256 :=
  toNat_bitField start (8 * k) 8

/-- The bits 7:5 of FLG are reserved (46_frame_parser R412). -/
theorem gzipByteOk_flg (b : Byte) : gzipByteOk 3 b = true ↔ b.toNat < 32 := by
  have hb := b.isLt
  show (b.extractLsb' 5 3 == 0) = true ↔ _
  simp only [beq_iff_eq, ← BitVec.toNat_inj, toNat_bitField, BitVec.reduceToNat]
  omega

/-- GZIP_HDR's checks on its operand (46_frame_parser R410 to R412, log 22). -/
theorem gzipStartOk_iff (start : BitVec 32) :
    (gzipByteOk 0 (gzipByte start 0) && gzipByteOk 1 (gzipByte start 1) && gzipByteOk 2 (gzipByte start 2)
        && gzipByteOk 3 (gzipByte start 3)) = true
      ↔ start.toNat % 2 ^ 24 = 0x088B1F ∧ start.toNat < 2 ^ 29 := by
  have hs := start.isLt
  rw [Bool.and_eq_true, Bool.and_eq_true, Bool.and_eq_true, gzipByteOk_flg]
  simp only [gzipByteOk, beq_iff_eq, ← BitVec.toNat_inj, gzipByte_toNat, BitVec.reduceToNat, Nat.reduceMul, Nat.reducePow]
  omega

theorem toNat_gzipStart (flg : Byte) : (flg ++ (0x088B1F : BitVec 24)).toNat = flg.toNat * 2 ^ 24 + 0x088B1F := by
  rw [BitVec.toNat_append, ← Nat.shiftLeft_add_eq_or_of_lt (0x088B1F : BitVec 24).isLt, Nat.shiftLeft_eq]
  rfl

theorem ofNat_leValue_gzipStart (flg : Byte) :
    BitVec.ofNat 32 (leValue [0x1F, 0x8B, 0x08, flg]) = flg ++ (0x088B1F : BitVec 24) := by
  have hf := flg.isLt
  apply BitVec.eq_of_toNat_eq
  rw [BitVec.toNat_ofNat, toNat_gzipStart]
  simp only [leValue, BitVec.reduceToNat]
  omega

theorem elemGzipHdr_bad {start : BitVec 32} (s : State) (h : start.toNat % 2 ^ 24 ≠ 0x088B1F ∨ 2 ^ 29 ≤ start.toNat) :
    elemGzipHdr start s = .raised .compressAlgorithmError s :=
  if_neg fun hok => by have := (gzipStartOk_iff start).1 hok; omega

theorem elemGzipHdr_ok {flg : Byte} (s : State) (h : flg.toNat < 32) :
    elemGzipHdr (flg ++ (0x088B1F : BitVec 24)) s = gzipFields flg s := by
  have hflg : gzipByte (flg ++ (0x088B1F : BitVec 24)) 3 = flg := BitVec.extractLsb'_append_eq_left
  rw [elemGzipHdr, if_pos ((gzipStartOk_iff _).2 (by rw [toNat_gzipStart]; omega)), hflg]

theorem takes_checkedByte {k : Nat} {b : Byte} (h : gzipByteOk k b = true) (s : State) : Takes s (checkedByte k s) b [b] :=
  (takes_readAlignedByte b s).bind (h := []) fun _ _ => by rw [if_pos h]; exact .nothing b _

theorem checkedByte_bad {k : Nat} {b : Byte} {more : List Byte} (hs : s.unread = b :: more) (h : ¬ gzipByteOk k b = true) :
    checkedByte k s = .raised .compressAlgorithmError (s.afterBytes [b]) := by
  rw [checkedByte, readAlignedByte_cons hs, bind_ok, if_neg h]

/-! ## The gzip header -/

theorem exec_gzipHdr (start : BitVec 32) (s : State) : exec (.gzipHdr start) s = (elemGzipHdr start s).finish := rfl

section
variable {flg : Byte} {g : List Byte}

theorem takes_elemGzipHdr (hflg : flg.toNat < 32) (hg : GzipTail flg g) (s : State) :
    Takes s (elemGzipHdr (flg ++ (0x088B1F : BitVec 24)) s) () g := by
  rw [elemGzipHdr_ok s hflg]
  exact takes_gzipFields hg s

theorem takes_gzipHeader (hflg : flg.toNat < 32) (hg : GzipTail flg g) (s : State) :
    Takes s (gzipHeader s) () (0x1F :: 0x8B :: 0x08 :: flg :: g) := by
  refine (takes_checkedByte (b := 0x1F) (by decide) s).bind (h := 0x8B :: 0x08 :: flg :: g) fun _ _ => ?_
  refine (takes_checkedByte (b := 0x8B) (by decide) _).bind (h := 0x08 :: flg :: g) fun _ _ => ?_
  refine (takes_checkedByte (b := 0x08) (by decide) _).bind (h := flg :: g) fun _ _ => ?_
  refine (takes_checkedByte ((gzipByteOk_flg flg).2 hflg) _).bind (h := g) fun _ _ => ?_
  rw [ofNat_leValue_gzipStart]
  exact takes_elemGzipHdr hflg hg _

/-- Six bytes follow FLG in every gzip header (46_frame_parser R413). -/
theorem GzipTail.ne_nil (hg : GzipTail flg g) : g ≠ [] := by
  obtain ⟨six, xs, name, comment, crc, x0, x1, hsix, -, -, -, -, rfl⟩ := hg
  cases six with
  | nil => cases hsix
  | cons b six => simp

end

/-- A check that fails on the byte after `good` ends the header with that byte read (46_frame_parser R410 to R412). -/
theorem gzipHeader_bad {good more : List Byte} {b : Byte} (hs : s.unread = good ++ b :: more)
    (hbad : (good = [] ∧ b ≠ 0x1F) ∨ (good = [0x1F] ∧ b ≠ 0x8B) ∨ (good = [0x1F, 0x8B] ∧ b ≠ 0x08)
      ∨ (good = [0x1F, 0x8B, 0x08] ∧ 32 ≤ b.toNat)) :
    gzipHeader s = .raised .compressAlgorithmError (s.afterBytes (good ++ [b])) := by
  have magic0 := (takes_checkedByte (k := 0) (b := 0x1F) (by decide) s).whole
  have magic1 := (takes_checkedByte (k := 1) (b := 0x8B) (by decide) (s.afterBytes [0x1F])).whole
  have magic2 := (takes_checkedByte (k := 2) (b := 0x08) (by decide) ((s.afterBytes [0x1F]).afterBytes [0x8B])).whole
  rcases hbad with ⟨rfl, hb⟩ | ⟨rfl, hb⟩ | ⟨rfl, hb⟩ | ⟨rfl, hb⟩
  · rw [gzipHeader, checkedByte_bad hs (by simpa [gzipByteOk] using hb)]
    rfl
  · have h1 := afterBytes_unread (g := [0x1F]) hs
    rw [gzipHeader, magic0 _ hs, bind_ok, checkedByte_bad h1 (by simpa [gzipByteOk] using hb)]
    rfl
  · have h1 := afterBytes_unread (g := [0x1F]) hs
    have h2 := afterBytes_unread (g := [0x8B]) h1
    rw [gzipHeader, magic0 _ hs, bind_ok, magic1 _ h1, bind_ok, checkedByte_bad h2 (by simpa [gzipByteOk] using hb)]
    rfl
  · have h1 := afterBytes_unread (g := [0x1F]) hs
    have h2 := afterBytes_unread (g := [0x8B]) h1
    have h3 := afterBytes_unread (g := [0x08]) h2
    rw [gzipHeader, magic0 _ hs, bind_ok, magic1 _ h1, bind_ok, magic2 _ h2, bind_ok,
      checkedByte_bad h3 (mt (gzipByteOk_flg b).1 (Nat.not_lt.2 hb))]
    rfl

/-- Settles O47 (the plain name is the function of the model): GZIP_HDR takes the bytes of a gzip tail, READ those and the four before
them; a bad start raises. -/
theorem gzipHeader_holds : Obligations.GzipHeader := by
  refine ⟨fun s flg g hflg hg => ⟨fun more hs => ?elemOk, fun p hs hp hne => ?elemShort, fun arg hphase hframe =>
    ⟨fun more hs => ?readOk, fun p hs hp hne => ?readShort⟩⟩, fun s start hbad => ?elemBad,
    fun s arg good b more hphase hframe hs hbad => ?readBad⟩
  case elemOk =>
    exact ⟨s.afterBytes g, by rw [exec_gzipHdr, (takes_elemGzipHdr hflg hg s).whole more hs, finish_ok], afterBytes_same g s,
      afterBytes_pos hg.ne_nil s, afterBytes_next g s⟩
  case elemShort =>
    obtain ⟨u, hu, hsame, hpos, hend⟩ := (takes_elemGzipHdr hflg hg s).fails_at_end hs hp hne
    exact ⟨failedWith .unexpectedEndOfStream u, by rw [exec_gzipHdr, hu]; rfl, congrArg (failedWith _) hsame, hpos, hend⟩
  case readOk =>
    have hhdr := (takes_gzipHeader hflg hg s).whole more hs
    refine ⟨{ s.afterBytes (0x1F :: 0x8B :: 0x08 :: flg :: g) with phase := .body }, ?_, afterBytes_pos (by simp) s, ?_,
      exec_read_of_header arg hphase hframe hhdr⟩
    · exact congrArg (fun u : State => { u with phase := .body }) (afterBytes_same _ s)
    · exact (afterBytes_next _ s).trans (congrArg (s.bc.next + ·) (Nat.add_comm g.length 4))
  case readShort =>
    obtain ⟨u, hu, hsame, hpos, hend⟩ := (takes_gzipHeader hflg hg s).fails_at_end hs hp hne
    exact ⟨failedWith .unexpectedEndOfStream u, exec_read_of_header_raised arg hphase hframe hu,
      congrArg (failedWith _) hsame, hpos, hend⟩
  case elemBad => rw [exec_gzipHdr, elemGzipHdr_bad s hbad]; rfl
  case readBad =>
    rw [exec_read_of_header_raised arg hphase hframe (gzipHeader_bad hs hbad), afterBytes_concat]

end Sys2Proof.Machine
end

section
/-! Host commands at the two ends of a session (47_host_commands R445, R447 to R451): START, the entry of the trailing modes, and the reads
of the residue. Each command is the operation it runs wherever its condition on the phase and the engine state holds. -/

namespace Sys2Proof.Machine

open Sys2Proof

variable {s t : State}

/-! ## Where the commands are legal (47_host_commands R440) -/

theorem canStart_iff : s.canStart = true ↔ s.phase = .idle ∨ s.phase = .released := by
  simp only [State.canStart, Bool.or_eq_true, beq_iff_eq]

theorem canEnterTrailing_iff :
    s.canEnterTrailing = true ↔ s.phase = .done ∧ (s.eng = .lastBlockFree ∨ s.eng = .trailingBits ∨ s.eng = .trailingBytes) := by
  simp only [State.canEnterTrailing, Bool.and_eq_true, Bool.or_eq_true, beq_iff_eq, or_assoc]

theorem inTrailingBits_iff : s.inTrailingBits = true ↔ s.phase = .done ∧ s.eng = .trailingBits := by
  simp only [State.inTrailingBits, Bool.and_eq_true, beq_iff_eq]

theorem inTrailingBytes_iff : s.inTrailingBytes = true ↔ s.phase = .done ∧ s.eng = .trailingBytes := by
  simp only [State.inTrailingBytes, Bool.and_eq_true, beq_iff_eq]

/-! ## What a legal command runs -/

section
variable (arg : BitVec 24)

theorem exec_start (h : s.canStart = true) : exec (.start arg) s = answer .ok s.openSession := if_pos h

theorem exec_enterTrailingBits (h : s.canEnterTrailing = true) :
    exec (.enterTrailingBits arg) s = answer .ok s.enterTrailingBits := if_pos h

theorem exec_enterTrailingBytes (h : s.canEnterTrailing = true) :
    exec (.enterTrailingBytes arg) s = answer .ok s.enterTrailingBytes := if_pos h

theorem exec_readTrailBit_of_ok {b : Bool} (h : s.inTrailingBits = true) (hr : readBit s = .ok b t) :
    exec (.readTrailBit arg) s = answer (.data (bitByte b)) t := by
  show execReadTrailBit arg s = _
  rw [execReadTrailBit, if_pos h, hr]
  rfl

theorem exec_readTrailBit_of_raised {e : StreamError} (h : s.inTrailingBits = true) (hr : readBit s = .raised e t) :
    exec (.readTrailBit arg) s = .next (t.latch e) := by
  show execReadTrailBit arg s = _
  rw [execReadTrailBit, if_pos h, hr]
  rfl

theorem exec_readTrailByte_of_ok {b : Byte} (h : s.inTrailingBytes = true) (hr : readAlignedByte s = .ok b t) :
    exec (.readTrailByte arg) s = answer (.data b) t := by
  show execReadTrailByte arg s = _
  rw [execReadTrailByte, if_pos h, hr]
  rfl

theorem exec_readTrailByte_of_raised {e : StreamError} (h : s.inTrailingBytes = true) (hr : readAlignedByte s = .raised e t) :
    exec (.readTrailByte arg) s = .next (t.latch e) := by
  show execReadTrailByte arg s = _
  rw [execReadTrailByte, if_pos h, hr]
  rfl

theorem exec_getBit_of_some {b : Bool} (h : s.inTrailingBits = true) (hb : peekBit arg.toNat s = some b) :
    exec (.getBit arg) s = answer (.data (bitByte b)) s := by
  show execGetBit arg s = _
  rw [execGetBit, if_pos h, hb]

theorem exec_getBit_of_none (h : s.inTrailingBits = true) (hb : peekBit arg.toNat s = none) :
    exec (.getBit arg) s = rejected .badArg s := by
  show execGetBit arg s = _
  rw [execGetBit, if_pos h, hb]

end

/-! ## A buffered bit by its index (40_bit_cursor R168) -/

theorem peekBit_of_lt {i : Nat} (h : i < 8 - s.bc.pos.val) : peekBit i s = some (s.bc.cur.getLsbD (s.bc.pos.val + i)) :=
  if_neg (Nat.not_le.2 h)

theorem peekBit_of_le {i : Nat} (h : 8 - s.bc.pos.val ≤ i) : peekBit i s = none := if_pos h

/-! ## The statements -/

/-- Settles O32: in its mode a command answers with what its one read of the cursor gives, a bit, a byte or the end of the source. -/
theorem trailingReads : Obligations.TrailingReads := by
  intro s arg hdone
  have hbits (heng : s.eng = .trailingBits) : s.inTrailingBits = true := inTrailingBits_iff.2 ⟨hdone, heng⟩
  have hbytes (heng : s.eng = .trailingBytes) : s.inTrailingBytes = true := inTrailingBytes_iff.2 ⟨hdone, heng⟩
  refine ⟨?bit, ?noBit, ?byte, ?noByte, ?buffered, ?beyond⟩
  case bit =>
    intro b rest heng hu
    obtain ⟨t, hread, hrest, hreads, -⟩ := readBit_upcoming hu
    exact ⟨_, exec_readTrailBit_of_ok arg (hbits heng) hread, congrArg (State.respond (.data (bitByte b))) hreads.same, hrest⟩
  case noBit => exact fun heng hu => exec_readTrailBit_of_raised arg (hbits heng) (readBit_end hu)
  case byte => exact fun b heng hb => exec_readTrailByte_of_ok arg (hbytes heng) (readAlignedByte_some hb)
  case noByte => exact fun heng hb => exec_readTrailByte_of_raised arg (hbytes heng) (readAlignedByte_none hb)
  case buffered => exact fun heng hi => exec_getBit_of_some arg (hbits heng) (peekBit_of_lt hi)
  case beyond => exact fun heng hi => exec_getBit_of_none arg (hbits heng) (peekBit_of_le hi)

/-- Settles O28: START is legal in Idle and Released, and the session it opens has the START values. -/
theorem startOpensASession : Obligations.StartOpensASession :=
  fun _ arg hphase => ⟨_, exec_start arg (canStart_iff.2 hphase), rfl⟩

/-- Settles O31: both entries are legal in Done once the payload has ended. -/
theorem trailingModesAreEntered : Obligations.TrailingModesAreEntered := by
  intro s arg hdone heng
  have hlegal : s.canEnterTrailing = true := canEnterTrailing_iff.2 ⟨hdone, heng⟩
  exact ⟨exec_enterTrailingBits arg hlegal, exec_enterTrailingBytes arg hlegal⟩

end Sys2Proof.Machine
end

section
/-! Reset (70_reset_and_hazards R520, R521): one step from any state. What lies outside the block stays (`State.resetBlock`), and no
register shows it. -/

namespace Sys2Proof.Machine

open Sys2Proof

/-- The word a register shows after reset, by its offset: 0 except MAXDIST, WINDIST and BITPOS (70_reset_and_hazards R520). -/
def resetWord : Nat → Word
  | 0x14 => 0x8000
  | 0x18 => 0x8000
  | 0x24 => 8
  | _ => 0

section
variable (s : State)

theorem step_of_reset {rest : List Request} (h : s.queue = .reset :: rest) : step s = .next (s.withQueue rest).resetBlock := by
  rw [step, h]
  rfl

/-- CHECKSUM, the one register computed with a parameter that reset keeps, shows 0 in Idle (10_state R72). -/
theorem resetBlock_checksumWord : s.resetBlock.checksumWord = 0 := checksumWord_idle (resetBlock_phase s)

theorem readReg_resetBlock (off : Nat) : readReg off s.resetBlock = resetWord off := by
  unfold readReg
  split
  case h_10 => exact resetBlock_checksumWord s
  -- an offset not in the map is none of the three that `resetWord` names
  case h_12 => simp [resetWord, *]
  all_goals rfl

end

/-- Settles O19: the step answers `resetBlock`, whose fields are those of `State.reset` and whose registers are `resetWord`. -/
theorem resetGivesResetValues : Obligations.ResetGivesResetValues := by
  intro s rest h
  refine ⟨_, step_of_reset s h, ?_⟩
  simp [BitCursor.reset, Window.reset, readReg_resetBlock, resetWord]

end Sys2Proof.Machine
end


section
/-! The encoder and the decoder against each other (30_encoding R110 to R123). A word is a sum of its fields, each at its place; `field` gives
each back, so a format decodes to the instruction it was written from, and what it decodes to is written as the same word. -/

namespace Sys2Proof

/-! ## A field of a sum of fields -/

/-- The lowest field of a word. -/
theorem field_low {n : Nat} (a : BitVec n) (y : Nat) : field (a.toNat + y <<< n) 0 n = a := by
  apply BitVec.eq_of_toNat_eq
  rw [field, BitVec.toNat_ofNat, Nat.shiftRight_zero, Nat.shiftLeft_eq, Nat.add_mul_mod_self_right, Nat.mod_eq_of_lt a.isLt]

/-- A field that is the whole word. -/
theorem field_self {n : Nat} (a : BitVec n) : field a.toNat 0 n = a := by
  have h := field_low a 0
  rwa [Nat.zero_shiftLeft, Nat.add_zero] at h

/-- A field above the lowest: the word above the bits below it. -/
theorem field_high {lo a : Nat} (h : a < 2 ^ lo) (y n : Nat) : field (a + y <<< lo) lo n = BitVec.ofNat n y := by
  rw [field, Nat.shiftRight_eq_div_pow, Nat.shiftLeft_eq, Nat.add_mul_div_right _ _ (Nat.two_pow_pos lo), Nat.div_eq_of_lt h,
    Nat.zero_add]

/-- The low bits of a value counted from the multiple `k` of their range. -/
theorem field_offset {n base : Nat} (k : Nat) (low : BitVec n) (h : base = k <<< n) : field (base + low.toNat) 0 n = low := by
  rw [h, Nat.add_comm, field_low]

/-- A field read from a word and written back is the word's part. -/
theorem toNat_field (v lo n : Nat) : (field v lo n).toNat = v / 2 ^ lo % 2 ^ n := by
  rw [field, BitVec.toNat_ofNat, Nat.shiftRight_eq_div_pow]

/-! ## The formats, decoded -/

/-- A word that fits its format decodes as that format says. -/
theorem decode_plain {f : Format} {v : Nat} (hf : f ≠ .microOp) (h : v < 2 ^ f.width) :
    decode (.plain f v) = decodeField f v := by
  rw [decode, InstrWord.plain, if_neg (Nat.not_le.2 h), if_neg hf, if_neg (by simp)]

/-- An element or a command comes back from its word when its format gives it back from the word's bits. -/
theorem decode_encode_of_field {i : Instr} {f : Format} {v : Nat} (hi : encode i = .plain f v)
    (hfit : Laws.EncodeFits.Statement i) (hf : f ≠ .microOp) (h : decodeField f v = .ok i) : decode (encode i) = .ok i := by
  have hlt : v < 2 ^ f.width := by have hbits := hfit.1; rwa [hi] at hbits
  rw [hi, decode_plain hf hlt, h]

/-- CMD and ARG come back from a CTRL word (R122). -/
theorem cmd_arg_of_word {cmd : Nat} (h : cmd < 256) (arg : BitVec 24) :
    (cmd + arg.toNat <<< 8) % 256 = cmd ∧ field (cmd + arg.toNat <<< 8) 8 24 = arg := by
  refine ⟨?_, by rw [field_high h, BitVec.ofNat_toNat, BitVec.setWidth_eq]⟩
  rw [Nat.shiftLeft_eq, Nat.add_mul_mod_self_right, Nat.mod_eq_of_lt h]

/-- The reserved commands are those of a CMD from 10 on; 9 is one by itself. -/
theorem decodeHostCmd_reserved {v : Nat} (h : 10 ≤ v % 256) :
    decodeHostCmd v =
      if v % 256 < 0x0C then .cmdReserved0A0B (field (v % 256) 0 1) (field v 8 24)
      else if v % 256 < 0x10 then .cmdReserved0C0F (field (v % 256) 0 2) (field v 8 24)
      else if v % 256 < 0x20 then .cmdReserved101F (field (v % 256) 0 4) (field v 8 24)
      else if v % 256 < 0x40 then .cmdReserved203F (field (v % 256) 0 5) (field v 8 24)
      else if v % 256 < 0x80 then .cmdReserved407F (field (v % 256) 0 6) (field v 8 24)
      else .cmdReserved80FF (field (v % 256) 0 7) (field v 8 24) := by
  unfold decodeHostCmd
  simp only
  split
  case h_11 => rfl
  all_goals omega

/-- A command comes back from its word when CMD and ARG give it back. -/
theorem decode_encode_of_command {i : Instr} {cmd : Nat} {arg : BitVec 24} (hi : encode i = cmdWord cmd arg) (h : cmd < 256)
    (hv : ∀ v, v % 256 = cmd → field v 8 24 = arg → decodeHostCmd v = i) : decode (encode i) = .ok i := by
  obtain ⟨hcmd, harg⟩ := cmd_arg_of_word h arg
  have hlt : cmd + arg.toNat <<< 8 < 2 ^ Format.hostCmd.width := (Laws.EncodeFits.cmdWord_fits cmd arg h).1
  rw [hi, cmdWord, decode_plain (by decide) hlt, decodeField, hv _ hcmd harg]

/-- BFINAL and BTYPE come back from a block header (R111). -/
theorem blkHdr_fields (f : Bool) (t : Nat) :
    (f.toNat + t <<< 1).testBit 0 = f ∧ field (f.toNat + t <<< 1) 1 2 = BitVec.ofNat 2 t := by
  refine ⟨?_, field_high f.toNat_lt t 2⟩
  rw [Nat.testBit_zero, Nat.shiftLeft_eq, Nat.add_mul_mod_self_right]
  cases f <;> rfl

theorem decode_encode_of_blkHdr {i : Instr} {f : Bool} {t : Nat} (hi : encode i = blkWord f t) (h : t < 4)
    (hv : ∀ v, v.testBit 0 = f → field v 1 2 = BitVec.ofNat 2 t → decodeBlkHdr v = i) : decode (encode i) = .ok i := by
  obtain ⟨hf, ht⟩ := blkHdr_fields f t
  have hlt : f.toNat + t <<< 1 < 2 ^ Format.blkHdr.width := (Laws.EncodeFits.blkWord_fits f t h).1
  rw [hi, blkWord, decode_plain (by decide) hlt, decodeField, hv _ hf ht]

/-- Bytes as operands come back as bytes. -/
theorem bytesOf_map_toNat (bytes : List Byte) : bytesOf (bytes.map (·.toNat)) = some bytes := by
  induction bytes with
  | nil => rfl
  | cons b bytes ih =>
    rw [List.map_cons, bytesOf, if_pos b.isLt, ih, BitVec.ofNat_toNat, BitVec.setWidth_eq]

/-- The three counts of a dynamic header come back (R113). -/
theorem dynHdr_fields (hlit hdist : BitVec 5) (hclen : BitVec 4) :
    field (hlit.toNat + hdist.toNat <<< 5 + hclen.toNat <<< 10) 0 5 = hlit
      ∧ field (hlit.toNat + hdist.toNat <<< 5 + hclen.toNat <<< 10) 5 5 = hdist
      ∧ field (hlit.toNat + hdist.toNat <<< 5 + hclen.toNat <<< 10) 10 4 = hclen := by
  have hlow : hlit.toNat + hdist.toNat <<< 5 < 2 ^ 10 := by
    have h1 := hlit.isLt
    have h2 := hdist.isLt
    rw [Nat.shiftLeft_eq]; omega
  have hnest : hlit.toNat + hdist.toNat <<< 5 + hclen.toNat <<< 10 = hlit.toNat + (hdist.toNat + hclen.toNat <<< 5) <<< 5 := by
    simp only [Nat.shiftLeft_eq]; omega
  refine ⟨by rw [hnest, field_low], ?_, by rw [field_high hlow, BitVec.ofNat_toNat, BitVec.setWidth_eq]⟩
  rw [hnest, field_high hlit.isLt]
  have h := field_low hdist hclen.toNat
  rwa [field, Nat.shiftRight_zero] at h

theorem map_toNat_bytesOf {ns : List Nat} {bytes : List Byte} (h : bytesOf ns = some bytes) : bytes.map (·.toNat) = ns := by
  induction ns generalizing bytes with
  | nil => cases h; rfl
  | cons n ns ih =>
    rw [bytesOf] at h
    split at h
    · next hn =>
      split at h
      · next bs hbs =>
        cases h
        rw [List.map_cons, ih hbs, BitVec.toNat_ofNat, Nat.mod_eq_of_lt hn]
      · cases h
    · cases h

open Laws in
/-- Settles O1: every field of every word comes back from the sum the word is. -/
theorem decodeOfEncode : Obligations.DecodeOfEncode := by
  intro i
  cases i
  case blockStored f => exact decode_encode_of_blkHdr rfl (by decide) fun v hf ht => by simp [decodeBlkHdr, hf, ht]
  case blockFixed f => exact decode_encode_of_blkHdr rfl (by decide) fun v hf ht => by simp [decodeBlkHdr, hf, ht]
  case blockDynamic f => exact decode_encode_of_blkHdr rfl (by decide) fun v hf ht => by simp [decodeBlkHdr, hf, ht]
  case blockReserved f => exact decode_encode_of_blkHdr rfl (by decide) fun v hf ht => by simp [decodeBlkHdr, hf, ht]
  case storedHdr len nlen =>
    refine decode_encode_of_field rfl (EncodeFits.storedHdr len nlen) (by decide) ?_
    rw [decodeField, field_low, field_high len.isLt, BitVec.ofNat_toNat, BitVec.setWidth_eq]
  case storedByte b => exact decode_encode_of_field rfl (EncodeFits.storedByte b) (by decide) (by rw [decodeField, field_self])
  case dynHdr hlit hdist hclen =>
    refine decode_encode_of_field rfl (EncodeFits.dynHdr hlit hdist hclen) (by decide) ?_
    obtain ⟨h1, h2, h3⟩ := dynHdr_fields hlit hdist hclen
    rw [decodeField, h1, h2, h3]
  case clLen s =>
    refine decode_encode_of_field rfl (EncodeFits.clLen s) (by decide) ?_
    rw [decodeField, decodeClSym, if_pos s.isLt, field_self]
  case lit s =>
    refine decode_encode_of_field rfl (EncodeFits.lit s) (by decide) ?_
    rw [decodeField, decodeLitlenSym, if_pos s.isLt, field_self]
  case litlenInvalid low =>
    refine decode_encode_of_field rfl (EncodeFits.litlenInvalid low) (by decide) ?_
    have hlow := low.isLt
    rw [decodeField, decodeLitlenSym, if_neg (by omega), if_neg (by omega), if_neg (by omega), if_pos (by omega),
      field_offset (base := 286) 143 low rfl]
  case distInvalid low =>
    refine decode_encode_of_field rfl (EncodeFits.distInvalid low) (by decide) ?_
    rw [decodeField, decodeDistSym, List.getElem?_eq_none (Nat.le_add_right 30 low.toNat)]
    simp only [field_offset (base := 30) 15 low rfl]
  case zlibHdr h => exact decode_encode_of_field rfl (EncodeFits.zlibHdr h) (by decide) (by rw [decodeField, field_self])
  case gzipHdr start => exact decode_encode_of_field rfl (EncodeFits.gzipHdr start) (by decide) (by rw [decodeField, field_self])
  case zlibTrl adler => exact decode_encode_of_field rfl (EncodeFits.zlibTrl adler) (by decide) (by rw [decodeField, field_self])
  case gzipTrl crc isize =>
    refine decode_encode_of_field rfl (EncodeFits.gzipTrl crc isize) (by decide) ?_
    rw [decodeField, field_low, field_high crc.isLt, BitVec.ofNat_toNat, BitVec.setWidth_eq]
  case nop arg => exact decode_encode_of_command rfl (by decide) fun v hc ha => by simp [decodeHostCmd, hc, ha]
  case start arg => exact decode_encode_of_command rfl (by decide) fun v hc ha => by simp [decodeHostCmd, hc, ha]
  case read arg => exact decode_encode_of_command rfl (by decide) fun v hc ha => by simp [decodeHostCmd, hc, ha]
  case enterTrailingBits arg => exact decode_encode_of_command rfl (by decide) fun v hc ha => by simp [decodeHostCmd, hc, ha]
  case enterTrailingBytes arg => exact decode_encode_of_command rfl (by decide) fun v hc ha => by simp [decodeHostCmd, hc, ha]
  case readTrailBit arg => exact decode_encode_of_command rfl (by decide) fun v hc ha => by simp [decodeHostCmd, hc, ha]
  case readTrailByte arg => exact decode_encode_of_command rfl (by decide) fun v hc ha => by simp [decodeHostCmd, hc, ha]
  case getBit arg => exact decode_encode_of_command rfl (by decide) fun v hc ha => by simp [decodeHostCmd, hc, ha]
  case release arg => exact decode_encode_of_command rfl (by decide) fun v hc ha => by simp [decodeHostCmd, hc, ha]
  case cmdReserved0909 arg => exact decode_encode_of_command rfl (by decide) fun v hc ha => by simp [decodeHostCmd, hc, ha]
  case cmdReserved0A0B low arg =>
    have hlow := low.isLt
    refine decode_encode_of_command rfl (by omega) fun v hc ha => ?_
    rw [decodeHostCmd_reserved (by omega), hc, ha, if_pos (by omega), field_offset (base := 0x0A) 5 low rfl]
  case cmdReserved0C0F low arg =>
    have hlow := low.isLt
    refine decode_encode_of_command rfl (by omega) fun v hc ha => ?_
    rw [decodeHostCmd_reserved (by omega), hc, ha, if_neg (by omega), if_pos (by omega), field_offset (base := 0x0C) 3 low rfl]
  case cmdReserved101F low arg =>
    have hlow := low.isLt
    refine decode_encode_of_command rfl (by omega) fun v hc ha => ?_
    rw [decodeHostCmd_reserved (by omega), hc, ha, if_neg (by omega), if_neg (by omega), if_pos (by omega), field_offset (base := 0x10) 1 low rfl]
  case cmdReserved203F low arg =>
    have hlow := low.isLt
    refine decode_encode_of_command rfl (by omega) fun v hc ha => ?_
    rw [decodeHostCmd_reserved (by omega), hc, ha, if_neg (by omega), if_neg (by omega), if_neg (by omega), if_pos (by omega),
      field_offset (base := 0x20) 1 low rfl]
  case cmdReserved407F low arg =>
    have hlow := low.isLt
    refine decode_encode_of_command rfl (by omega) fun v hc ha => ?_
    rw [decodeHostCmd_reserved (by omega), hc, ha, if_neg (by omega), if_neg (by omega), if_neg (by omega), if_neg (by omega),
      if_pos (by omega), field_offset (base := 0x40) 1 low rfl]
  case cmdReserved80FF low arg =>
    have hlow := low.isLt
    refine decode_encode_of_command rfl (by omega) fun v hc ha => ?_
    rw [decodeHostCmd_reserved (by omega), hc, ha, if_neg (by omega), if_neg (by omega), if_neg (by omega), if_neg (by omega),
      if_neg (by omega), field_offset (base := 0x80) 1 low rfl]
  case winPut b =>
    show (if b.toNat < 256 then Except.ok (Instr.winPut (BitVec.ofNat 8 b.toNat)) else _) = _
    rw [if_pos b.isLt, BitVec.ofNat_toNat, BitVec.setWidth_eq]
  case winPutBulk maxLen bytes =>
    show (match bytesOf (bytes.map (·.toNat)) with
      | some bs => Except.ok (Instr.winPutBulk maxLen bs)
      | none => Except.error DecodeError.wrongOperands) = _
    rw [bytesOf_map_toNat]
  all_goals rfl

/-! ## What a word decodes to, encoded -/

theorem encode_lenInstrs {k : Nat} {i : Instr} (h : lenInstrs[k]? = some i) : encode i = .plain .litlenSym (257 + k) := by
  have hmap : lenInstrs.map encode = (List.range 29).map fun k => InstrWord.plain .litlenSym (257 + k) := rfl
  have hk : k < 29 := (List.getElem?_eq_some_iff.1 h).1
  have hget := congrArg (·[k]?) hmap
  simpa [h, hk] using hget

theorem encode_distInstrs {k : Nat} {i : Instr} (h : distInstrs[k]? = some i) : encode i = .plain .distSym k := by
  have hmap : distInstrs.map encode = (List.range 30).map fun k => InstrWord.plain .distSym k := rfl
  have hk : k < 30 := (List.getElem?_eq_some_iff.1 h).1
  have hget := congrArg (·[k]?) hmap
  simpa [h, hk] using hget

theorem encode_decodeBlkHdr {v : Nat} (h : v < 8) : encode (decodeBlkHdr v) = .plain .blkHdr v := by
  revert v; decide

theorem encode_decodeClSym {v : Nat} {i : Instr} (h : decodeClSym v = .ok i) : encode i = .plain .clSym v := by
  unfold decodeClSym at h
  split at h
  · next hv =>
    cases h
    rw [encode, toNat_field, Nat.pow_zero, Nat.div_one, Nat.mod_eq_of_lt (show v < 2 ^ 4 from hv)]
  split at h
  · next hv => cases h; rw [hv]; rfl
  split at h
  · next hv => cases h; rw [hv]; rfl
  split at h
  · next hv => cases h; rw [hv]; rfl
  · cases h

theorem encode_decodeLitlenSym {v : Nat} {i : Instr} (h : decodeLitlenSym v = .ok i) : encode i = .plain .litlenSym v := by
  unfold decodeLitlenSym at h
  split at h
  · next hv =>
    cases h
    rw [encode, toNat_field, Nat.pow_zero, Nat.div_one, Nat.mod_eq_of_lt (show v < 2 ^ 8 from hv)]
  split at h
  · next hv => cases h; rw [hv]; rfl
  split at h
  · split at h
    · next hi =>
      cases h
      rw [encode_lenInstrs hi, show 257 + (v - 257) = v by omega]
    · cases h
  split at h
  · cases h
    rw [encode, toNat_field, show 286 + v / 2 ^ 0 % 2 ^ 1 = v by omega]
  · cases h

theorem encode_decodeDistSym {v : Nat} (h : v < 32) : encode (decodeDistSym v) = .plain .distSym v := by
  unfold decodeDistSym
  split
  · next hi => exact encode_distInstrs hi
  · next hi =>
    have hge : 30 ≤ v := List.getElem?_eq_none_iff.1 hi
    rw [encode, toNat_field, show 30 + v / 2 ^ 0 % 2 ^ 1 = v by omega]

/-- A CTRL word is its CMD and its ARG (R122). -/
theorem cmdWord_of_word {v cmd : Nat} (h : v < 2 ^ 32) (hcmd : cmd = v % 256) : cmdWord cmd (field v 8 24) = .plain .hostCmd v := by
  rw [cmdWord, hcmd, toNat_field, Nat.shiftLeft_eq, show v % 256 + v / 2 ^ 8 % 2 ^ 24 * 2 ^ 8 = v by omega]

theorem encode_decodeHostCmd {v : Nat} (h : v < 2 ^ 32) : encode (decodeHostCmd v) = .plain .hostCmd v := by
  by_cases hr : 10 ≤ v % 256
  · have hlt : v % 256 < 256 := Nat.mod_lt _ (by decide)
    rw [decodeHostCmd_reserved hr]
    split
    · exact cmdWord_of_word h (by rw [toNat_field]; omega)
    split
    · exact cmdWord_of_word h (by rw [toNat_field]; omega)
    split
    · exact cmdWord_of_word h (by rw [toNat_field]; omega)
    split
    · exact cmdWord_of_word h (by rw [toNat_field]; omega)
    split
    · exact cmdWord_of_word h (by rw [toNat_field]; omega)
    · exact cmdWord_of_word h (by rw [toNat_field]; omega)
  · unfold decodeHostCmd
    simp only
    split
    case h_11 => grind
    all_goals next hcmd => exact cmdWord_of_word h hcmd.symm

theorem encode_decodeField {f : Format} {v : Nat} {i : Instr} (hv : v < 2 ^ f.width) (h : decodeField f v = .ok i) :
    encode i = .plain f v := by
  cases f
  case clSym => exact encode_decodeClSym h
  case litlenSym => exact encode_decodeLitlenSym h
  all_goals cases h
  case blkHdr => exact encode_decodeBlkHdr hv
  case distSym => exact encode_decodeDistSym hv
  case hostCmd => exact encode_decodeHostCmd hv
  all_goals
    simp only [Format.width] at hv
    simp only [encode, toNat_field, Nat.shiftLeft_eq, InstrWord.plain, InstrWord.mk.injEq, true_and, and_true]
    omega

theorem encode_decodeMicroOp {v : Nat} {args : List Nat} {i : Instr} (h : decodeMicroOp v args = .ok i) :
    encode i = ⟨.microOp, v, args⟩ := by
  unfold decodeMicroOp at h
  split at h
  case h_9 b =>
    split at h
    · next hb => cases h; rw [encode, BitVec.toNat_ofNat, Nat.mod_eq_of_lt hb]
    · cases h
  case h_10 maxLen bytes =>
    split at h
    · next hbs => cases h; rw [encode, map_toNat_bytesOf hbs]
    · cases h
  all_goals cases h
  all_goals rfl

/-- Settles O2: format by format, what a word decodes to is written as that word. -/
theorem encodeOfDecode : Obligations.EncodeOfDecode := by
  rintro ⟨f, v, args⟩ i h
  unfold decode at h
  split at h
  · cases h
  next hfit =>
  split at h
  · next hf => rw [encode_decodeMicroOp h, ← hf]
  split at h
  · cases h
  · next hargs =>
    have hnil : args = [] := Decidable.not_not.1 hargs
    rw [encode_decodeField (Nat.not_le.1 hfit) h, hnil]
    rfl

/-- Settles O3: the decoder computes each of the words. -/
theorem specWordsDecode : Obligations.SpecWordsDecode := by
  unfold Obligations.SpecWordsDecode
  decide

end Sys2Proof
end


section
/-! Every instruction but START, READ and RELEASE is one operation whose end `Res.finish` takes (00_scope R16, R17). `Operation` says of that
operation what every later statement needs: the fields it writes, that it raises only where the instruction may fail the session, that it
keeps `CoreOk`, and that it keeps every condition on the stream alone. -/

namespace Sys2Proof.Machine

open Sys2Proof

/-! ## Conditions on the stream alone, kept by the operations that read bytes -/

theorem keeps_optionalField {P : State → Prop} {present : Bool} {skip : State → Res Unit} 
    (hskip : ∀ {t}, P t → Keeps P (skip t)) {s : State} (h : P s) : Keeps P (optionalField present skip s) := by
  unfold optionalField; split
  · exact hskip h
  · exact h

namespace StreamClosed

variable {P : State → Prop} (hP : StreamClosed P) {s : State}
include hP

theorem keeps_readAlignedByte (h : P s) : Keeps P (readAlignedByte s) :=
  Keeps.bind (hP.keeps_readBits 8 (hP.align h)) fun _ _ h1 => h1

theorem keeps_readBytes (n : Nat) {s : State} (h : P s) : Keeps P (readBytes n s) := by
  induction n generalizing s with
  | zero => exact h
  | succ n ih => exact Keeps.bind (hP.keeps_readAlignedByte h) fun _ _ h1 => Keeps.bind (ih h1) fun _ _ h2 => h2

theorem keeps_skipBytes (n : Nat) {s : State} (h : P s) : Keeps P (skipBytes n s) := by
  induction n generalizing s with
  | zero => exact h
  | succ n ih => exact Keeps.bind (hP.keeps_readAlignedByte h) fun _ _ h1 => ih h1

theorem keeps_skipString (n : Nat) {s : State} (h : P s) : Keeps P (skipString n s) := by
  induction n generalizing s with
  | zero => trivial
  | succ n ih =>
    refine Keeps.bind (hP.keeps_readAlignedByte h) fun _ _ h1 => ?_
    split
    · exact h1
    · exact ih h1

theorem keeps_gzipFields (flg : Byte) (h : P s) : Keeps P (gzipFields flg s) :=
  Keeps.bind (hP.keeps_skipBytes 6 h) fun _ _ h1 =>
    Keeps.bind (keeps_optionalField (fun ht => Keeps.bind (hP.keeps_readBytes 2 ht) fun _ _ hu => hP.keeps_skipBytes _ hu) h1) fun _ _ h2 =>
      Keeps.bind (keeps_optionalField (fun ht => hP.keeps_skipString _ ht) h2) fun _ _ h3 =>
        Keeps.bind (keeps_optionalField (fun ht => hP.keeps_skipString _ ht) h3) fun _ _ h4 =>
          keeps_optionalField (fun ht => hP.keeps_skipBytes 2 ht) h4

theorem keeps_elemGzipHdr (start : BitVec 32) (h : P s) : Keeps P (elemGzipHdr start s) := by
  unfold elemGzipHdr; split
  · exact hP.keeps_gzipFields _ h
  · exact h

theorem keeps_elemZlibHdr (hd : BitVec 16) (h : P s) : Keeps P (elemZlibHdr hd s) := by
  unfold elemZlibHdr; split
  · exact hP.other (s := s) rfl rfl h
  · exact h

theorem keeps_elemZlibTrl (adler : Word) (h : P s) : Keeps P (elemZlibTrl adler s) := by
  unfold elemZlibTrl; split <;> exact hP.other (s := s) rfl rfl h

theorem keeps_elemGzipTrl (crc isize : Word) (h : P s) : Keeps P (elemGzipTrl crc isize s) := by
  unfold elemGzipTrl; split <;> exact hP.other (s := s) rfl rfl h

theorem keeps_elemStoredByte (b : Byte) (h : P s) : Keeps P (elemStoredByte b s) := by
  unfold elemStoredByte; split
  · trivial
  · exact Keeps.bind (hP.keeps_putAndEmit b h) fun _ t h1 => hP.other (s := t) rfl rfl h1

theorem keeps_winPut (b : Byte) (h : P s) : Keeps P (winPut b s) := by
  unfold winPut; split
  · exact hP.other (s := s) rfl rfl h
  · trivial

theorem keeps_winPutAll (bytes : List Byte) {s : State} (h : P s) : Keeps P (winPutAll bytes s) := by
  induction bytes generalizing s with
  | nil => exact h
  | cons b bytes ih => exact Keeps.bind (hP.keeps_winPut b h) fun _ _ h1 => ih h1

theorem keeps_winCopy (d : Nat) (h : P s) : Keeps P (winCopy d s) := by
  rcases winCopy_cases d s with ⟨-, hr⟩ | ⟨-, -, hr⟩ | ⟨-, -, -, hr⟩ | ⟨b, -, -, -, hr⟩ <;> rw [hr]
  · trivial
  · exact h
  · trivial
  · exact hP.other (s := s) rfl rfl h

theorem keeps_winCopyAll (d n : Nat) {s : State} (h : P s) : Keeps P (winCopyAll d n s) := by
  induction n generalizing s with
  | zero => exact h
  | succ n ih => exact Keeps.bind (hP.keeps_winCopy d h) fun _ _ h1 => Keeps.bind (ih h1) fun _ _ h2 => h2

theorem keeps_winPutBulk (maxLen : Nat) (bytes : List Byte) (h : P s) : Keeps P (winPutBulk maxLen bytes s) := by
  unfold winPutBulk; split
  · exact Keeps.bind (hP.keeps_winPutAll _ h) fun _ _ h1 => h1
  · trivial

theorem keeps_winCopyBulk (d n : Nat) (h : P s) : Keeps P (winCopyBulk d n s) := by
  unfold winCopyBulk; split
  · exact hP.keeps_winCopyAll d n h
  · trivial

end StreamClosed

/-! ## Bulk puts and copies -/

theorem keeps_winPutAll (bytes : List Byte) {s : State} (h : CoreOk s) : Keeps CoreOk (winPutAll bytes s) := by
  induction bytes generalizing s with
  | nil => exact h
  | cons b bytes ih => exact Keeps.bind (keeps_winPut h b) fun _ _ h1 => ih h1

theorem keeps_winCopyAll (d n : Nat) {s : State} (h : CoreOk s) : Keeps CoreOk (winCopyAll d n s) := by
  induction n generalizing s with
  | zero => exact h
  | succ n ih => exact Keeps.bind (keeps_winCopy h d) fun _ _ h1 => Keeps.bind (ih h1) fun _ _ h2 => h2

theorem frames_winPutAll (bytes : List Byte) (s : State) : Frames putFields s (winPutAll bytes s) := by
  induction bytes generalizing s with
  | nil => exact Frames.self _
  | cons b bytes ih => exact Frames.bind (frames_winPut b s) fun _ t => ih t

theorem frames_winCopyAll (d n : Nat) (s : State) : Frames putFields s (winCopyAll d n s) := by
  induction n generalizing s with
  | zero => exact Frames.self _
  | succ n ih => exact Frames.bind (frames_winCopy d s) fun _ t => Frames.bind (ih t) fun _ _ => Frames.self _

theorem frames_winPutBulk (maxLen : Nat) (bytes : List Byte) (s : State) : Frames putFields s (winPutBulk maxLen bytes s) := by
  unfold winPutBulk; split
  · exact Frames.bind (frames_winPutAll _ s) fun _ _ => Frames.self _
  · trivial

theorem keeps_winPutBulk (maxLen : Nat) (bytes : List Byte) {s : State} (h : CoreOk s) : Keeps CoreOk (winPutBulk maxLen bytes s) := by
  unfold winPutBulk; split
  · exact Keeps.bind (keeps_winPutAll _ h) fun _ _ h1 => h1
  · trivial

theorem frames_winCopyBulk (d n : Nat) (s : State) : Frames putFields s (winCopyBulk d n s) := by
  unfold winCopyBulk; split
  · exact frames_winCopyAll d n s
  · trivial

theorem keeps_winCopyBulk (d n : Nat) {s : State} (h : CoreOk s) : Keeps CoreOk (winCopyBulk d n s) := by
  unfold winCopyBulk; split
  · exact keeps_winCopyAll d n h
  · trivial

/-! ## Answers, results and the window's control -/

theorem keeps_readBits_any (n : Nat) {s : State} (h : CoreOk s) : Keeps CoreOk (readBits n s) := by
  by_cases hn : n ≤ 24
  · exact keeps_readBits hn h
  · rw [readBits, if_pos (Nat.lt_of_not_le hn)]; trivial

theorem keeps_elemClLen (l : BitVec 4) {s : State} (h : CoreOk s) : Keeps CoreOk (elemClLen l s) := by
  have hl : l.toNat < 16 := l.isLt
  have hk := keeps_clElem l.toNat h
  rwa [clElem, if_pos hl, BitVec.ofNat_toNat, BitVec.setWidth_eq] at hk

theorem core_eng {s : State} (h : CoreOk s) (g : Eng) : CoreOk { s with eng := g } :=
  ⟨h.cursor, h.window, h.litlen, h.dist, h.copy, h.scratch, h.registers⟩

theorem core_clear {s : State} (h : CoreOk s) : CoreOk s.clearWindow := by
  obtain ⟨-, -, hmin, hmax, hwf, -⟩ := h.window
  exact ⟨h.cursor, ⟨by simp, by simp, hmin, hmax, hwf, fun d h1 h2 => absurd h1 (Nat.not_le.2 (Nat.lt_succ_of_le h2))⟩,
    h.litlen, h.dist, h.copy, h.scratch, h.registers⟩

theorem core_release {s : State} (h : CoreOk s) : CoreOk s.releaseWindow :=
  ⟨h.cursor, h.window, h.litlen, h.dist, h.copy, h.scratch, h.registers⟩

theorem core_lowerCap {s : State} {m : Nat} (h : CoreOk s) (hm : s.win.mayLower m = true) : CoreOk (s.lowerCap m) := by
  simp only [Window.mayLower, Bool.and_eq_true, decide_eq_true_eq] at hm
  obtain ⟨hptr, hfilled, -, hmax, hwf, hstored⟩ := h.window
  exact ⟨h.cursor, ⟨hptr, hfilled, hm.1, Nat.le_trans hm.2 hmax, hwf, hstored⟩, h.litlen, h.dist, h.copy, h.scratch, h.registers⟩

theorem agree_createWindow (m : Nat) (s : State) : Agree createFields s (s.createWindow m) := by
  intro f hf
  cases f
  case winWptr | winFilled | winMaxDist | winAcq => exact absurd (by decide) hf
  all_goals rfl

theorem agree_clearWindow (s : State) : Agree [.winWptr, .winFilled] s s.clearWindow := by
  intro f hf
  cases f
  case winWptr | winFilled => exact absurd (by decide) hf
  all_goals rfl

theorem agree_releaseWindow (s : State) : Agree [.winAcq] s s.releaseWindow := by
  intro f hf
  cases f
  case winAcq => exact absurd (by decide) hf
  all_goals rfl

theorem agree_lowerCap (m : Nat) (s : State) : Agree [.winMaxDist] s (s.lowerCap m) := by
  intro f hf
  cases f
  case winMaxDist => exact absurd (by decide) hf
  all_goals rfl

theorem agree_enterTrailingBits (s : State) : Agree [.eng] s s.enterTrailingBits := by
  intro f hf
  cases f
  case eng => exact absurd (by decide) hf
  all_goals rfl

theorem agree_enterTrailingBytes (s : State) : Agree [.eng, .bc] s s.enterTrailingBytes := by
  intro f hf
  cases f
  case eng | bc => exact absurd (by decide) hf
  all_goals rfl

theorem agree_respond (r : Resp) (s : State) : Agree [.resp] s (s.respond r) := by
  intro f hf
  cases f
  case resp => exact absurd (by decide) hf
  all_goals rfl

theorem agree_setRet (r : Ret) (s : State) : Agree [.ret] s (s.setRet r) := by
  intro f hf
  cases f
  case ret => exact absurd (by decide) hf
  all_goals rfl

theorem core_setRet {s : State} (h : CoreOk s) (r : Ret) : CoreOk (s.setRet r) :=
  ⟨h.cursor, h.window, h.litlen, h.dist, h.copy, h.scratch, h.registers⟩

/-! ## What an instruction is -/

/-- The instruction `i` run in `s` is the operation that answers `r`. -/
structure Operation (i : Instr) (s : State) (r : Res Unit) : Prop where
  run : exec i s = r.finish
  /-- It writes within the instruction's list, and the phase and the latched error only by raising. -/
  frame : ∃ F : List Field, Frames F s r ∧ F ⊆ writes i ∧ .phase ∉ F ∧ .err ∉ F
  raises : r.Sat True (fun _ _ => True) fun _ _ => latchFields ⊆ writes i
  core : CoreOk s → Keeps CoreOk r
  stream : ∀ {P : State → Prop}, StreamClosed P → P s → Keeps P r

/-- The operation does not raise. -/
abbrev NeverRaises {α : Type} (r : Res α) : Prop := r.Sat True (fun _ _ => True) fun _ _ => False

theorem NeverRaises.bind {α β : Type} {r : Res α} {k : α → State → Res β} (h : NeverRaises r) (hk : ∀ a t, NeverRaises (k a t)) :
    NeverRaises (r.bind k) :=
  Res.Sat.bind h fun a t _ => hk a t

theorem winPut_neverRaises (b : Byte) (s : State) : NeverRaises (winPut b s) := by
  unfold winPut; split <;> trivial

theorem putAndEmit_neverRaises (b : Byte) (s : State) : NeverRaises (putAndEmit b s) :=
  (winPut_neverRaises b s).bind fun _ _ => trivial

theorem elemStoredByte_neverRaises (b : Byte) (s : State) : NeverRaises (elemStoredByte b s) := by
  unfold elemStoredByte; split
  · trivial
  · exact (putAndEmit_neverRaises b s).bind fun _ _ => trivial

theorem winPutAll_neverRaises (bytes : List Byte) (s : State) : NeverRaises (winPutAll bytes s) := by
  induction bytes generalizing s with
  | nil => trivial
  | cons b bytes ih => exact (winPut_neverRaises b s).bind fun _ t => ih t

theorem winPutBulk_neverRaises (maxLen : Nat) (bytes : List Byte) (s : State) : NeverRaises (winPutBulk maxLen bytes s) := by
  unfold winPutBulk; split
  · exact (winPutAll_neverRaises _ s).bind fun _ _ => trivial
  · trivial

/-- An operation that writes within `F`, and raises only where the instruction may fail the session. -/
theorem Operation.of_res {i : Instr} {s : State} {r : Res Unit} {F : List Field} (hrun : exec i s = r.finish)
    (hframe : Frames F s r) (hF : decide (F ⊆ writes i) = true) (hquiet : .phase ∉ F ∧ .err ∉ F)
    (hraises : decide (latchFields ⊆ writes i) = true ∨ NeverRaises r) (hcore : CoreOk s → Keeps CoreOk r)
    (hstream : ∀ {P : State → Prop}, StreamClosed P → P s → Keeps P r) : Operation i s r where
  run := hrun
  frame := ⟨F, hframe, of_decide_eq_true hF, hquiet⟩
  raises := by
    rcases hraises with h | h
    · exact (sat_trivial r).weaken (fun _ _ _ => trivial) fun _ _ _ => of_decide_eq_true h
    · exact h.weaken (fun _ _ _ => trivial) fun _ _ h => h.elim
  core := hcore
  stream := hstream

/-- An operation that ends well. -/
theorem Operation.of_ok {i : Instr} {s t : State} {F : List Field} (hrun : exec i s = .next t) (hframe : Agree F s t)
    (hF : decide (F ⊆ writes i) = true) (hquiet : .phase ∉ F ∧ .err ∉ F) (hcore : CoreOk s → CoreOk t)
    (hstream : ∀ {P : State → Prop}, StreamClosed P → P s → P t) : Operation i s (.ok () t) :=
  .of_res hrun hframe hF hquiet (.inr trivial) hcore hstream

theorem Operation.of_refused {i : Instr} {s : State} {r : Refusal} (hrun : exec i s = .refused r) : Operation i s (.refused r) :=
  .of_res (F := []) hrun trivial (decide_eq_true (List.nil_subset _)) (by decide) (.inr trivial) (fun _ => trivial) fun _ _ => trivial

/-- A command that only answers. -/
theorem Operation.of_respond {i : Instr} {s : State} {r : Resp} (hrun : exec i s = .next (s.respond r))
    (hi : decide ([.resp] ⊆ writes i) = true) (hr : ∀ c, r ≠ .error c) : Operation i s (.ok () (s.respond r)) :=
  .of_ok hrun (agree_respond r s) hi (by decide) (fun h => core_respond h fun c hc => absurd hc (hr c))
    fun hP h => hP.other (s := s) rfl rfl h

/-- A micro-operation that only returns a value. -/
theorem Operation.of_setRet {i : Instr} {s t : State} {ret : Ret} {F : List Field} (hrun : exec i s = .next (t.setRet ret))
    (hframe : Agree F s t) (hF : decide (.ret :: F ⊆ writes i) = true) (hquiet : .phase ∉ F ∧ .err ∉ F) (hcore : CoreOk s → CoreOk t)
    (hstream : ∀ {P : State → Prop}, StreamClosed P → P s → P t) : Operation i s (.ok () (t.setRet ret)) :=
  .of_ok (F := .ret :: F) hrun ((hframe.mono (List.subset_cons_self _ _)).trans ((agree_setRet ret t).mono (by simp))) hF
    (by simpa using hquiet) (fun h => core_setRet (hcore h) ret) fun hP h => hP.other (s := t) rfl rfl (hstream hP h)

/-- A micro-operation that runs an operation and returns its value. -/
theorem Operation.of_returning {α : Type} {i : Instr} {s : State} {r : Res α} {f : α → Ret} {F : List Field}
    (hrun : exec i s = returning r f) (hframe : Frames F s r) (hF : decide (.ret :: F ⊆ writes i) = true)
    (hquiet : .phase ∉ F ∧ .err ∉ F) (hraises : decide (latchFields ⊆ writes i) = true ∨ NeverRaises r)
    (hcore : CoreOk s → Keeps CoreOk r) (hstream : ∀ {P : State → Prop}, StreamClosed P → P s → Keeps P r) :
    Operation i s (r.bind fun a t => .ok () (t.setRet (f a))) :=
  .of_res (F := .ret :: F) hrun
    (Frames.bind (hframe.mono (List.subset_cons_self _ _)) fun a t => (agree_setRet (f a) t).mono (by simp)) hF (by simpa using hquiet)
    (hraises.imp_right fun h => h.bind fun _ _ => trivial)
    (fun h => Keeps.bind (hcore h) fun a _ ht => core_setRet ht (f a))
    fun hP h => Keeps.bind (hstream hP h) fun _ t ht => hP.other (s := t) rfl rfl ht

/-! ## The length and distance symbols -/

theorem exec_lenTable {i : Instr} {base ext : Nat} (h : (i, base, ext) ∈ lenTable) (s : State) :
    exec i s = (lenSymbol base ext s).finish := by
  have hmap : lenTable.map (fun e => exec e.1) = lenTable.map fun e => fun s => (lenSymbol e.2.1 e.2.2 s).finish := rfl
  exact congrFun (List.map_inj_left.1 hmap _ h) s

theorem exec_distTable {i : Instr} {base ext : Nat} (h : (i, base, ext) ∈ distTable) (s : State) :
    exec i s = (distSymbol base ext s).finish := by
  have hmap : distTable.map (fun e => exec e.1) = distTable.map fun e => fun s => (distSymbol e.2.1 e.2.2 s).finish := rfl
  exact congrFun (List.map_inj_left.1 hmap _ h) s

theorem lenTable_bounds {i : Instr} {base ext : Nat} (h : (i, base, ext) ∈ lenTable) : 3 ≤ base ∧ base + 2 ^ ext ≤ 259 ∧ ext ≤ 24 := by
  have hall : ∀ e ∈ lenTable, 3 ≤ e.2.1 ∧ e.2.1 + 2 ^ e.2.2 ≤ 259 ∧ e.2.2 ≤ 24 := by decide
  exact hall _ h

theorem distTable_bounds {i : Instr} {base ext : Nat} (h : (i, base, ext) ∈ distTable) :
    1 ≤ base ∧ base + 2 ^ ext ≤ 32769 ∧ ext ≤ 24 := by
  have hall : ∀ e ∈ distTable, 1 ≤ e.2.1 ∧ e.2.1 + 2 ^ e.2.2 ≤ 32769 ∧ e.2.2 ≤ 24 := by decide
  exact hall _ h

theorem exists_lenTable {i : Instr} (h : i ∈ lenInstrs) : ∃ base ext, (i, base, ext) ∈ lenTable := by
  have hmap : lenTable.map (·.1) = lenInstrs := rfl
  obtain ⟨⟨_, base, ext⟩, hmem, rfl⟩ := List.mem_map.1 (hmap ▸ h)
  exact ⟨base, ext, hmem⟩

theorem exists_distTable {i : Instr} (h : i ∈ distInstrs) : ∃ base ext, (i, base, ext) ∈ distTable := by
  have hmap : distTable.map (·.1) = distInstrs := rfl
  obtain ⟨⟨_, base, ext⟩, hmem, rfl⟩ := List.mem_map.1 (hmap ▸ h)
  exact ⟨base, ext, hmem⟩

theorem exists_operation_len {i : Instr} (hi : i ∈ lenInstrs) (s : State) : ∃ r, Operation i s r := by
  have hwrites : ∀ i ∈ lenInstrs, decide (.bc :: pairFields ⊆ writes i) = true ∧ decide (latchFields ⊆ writes i) = true := by decide
  obtain ⟨base, ext, hmem⟩ := exists_lenTable hi
  obtain ⟨-, hbound, hext⟩ := lenTable_bounds hmem
  exact ⟨_, .of_res (exec_lenTable hmem s) (frames_lenSymbol base ext s) (hwrites i hi).1 (by decide) (.inl (hwrites i hi).2)
    (keeps_lenSymbol hbound hext) fun hP => hP.keeps_lenSymbol base ext⟩

theorem exists_operation_dist {i : Instr} (hi : i ∈ distInstrs) (s : State) : ∃ r, Operation i s r := by
  have hwrites : ∀ i ∈ distInstrs, decide ([.bc, .pendLen, .pendDist] ⊆ writes i) = true
      ∧ decide (latchFields ⊆ writes i) = true := by decide
  obtain ⟨base, ext, hmem⟩ := exists_distTable hi
  obtain ⟨hbase, hbound, hext⟩ := distTable_bounds hmem
  exact ⟨_, .of_res (exec_distTable hmem s) (frames_distSymbol base ext s) (hwrites i hi).1 (by decide) (.inl (hwrites i hi).2)
    (keeps_distSymbol hbase hbound hext) fun hP => hP.keeps_distSymbol base ext⟩

/-! ## Every instruction but three -/

theorem exec_bcGetBit_of_some {k : Nat} {b : Bool} {s : State} (hb : peekBit k s = some b) :
    exec (.bcGetBit k) s = .next (s.setRet (.bit b)) := by
  show execBcGetBit k s = _
  rw [execBcGetBit, hb]

theorem exec_bcGetBit_of_none {k : Nat} {s : State} (hb : peekBit k s = none) :
    exec (.bcGetBit k) s = .next (s.respond (.reject .badArg)) := by
  show execBcGetBit k s = _
  rw [execBcGetBit, hb]
  rfl

/-- The commands that begin, run and end a session. -/
def isSessionCommand : Instr → Bool
  | .start _ | .read _ | .release _ => true
  | _ => false

theorem exists_operation {i : Instr} (hi : isSessionCommand i = false) (s : State) : ∃ r, Operation i s r := by
  cases i
  case start => cases hi
  case read => cases hi
  case release => cases hi
  case len257 | len258 | len259 | len260 | len261 | len262 | len263 | len264 | len265 | len266 | len267 | len268 | len269 | len270
    | len271 | len272 | len273 | len274 | len275 | len276 | len277 | len278 | len279 | len280 | len281 | len282 | len283 | len284
    | len285 => exact exists_operation_len (by decide) s
  case dist0 | dist1 | dist2 | dist3 | dist4 | dist5 | dist6 | dist7 | dist8 | dist9 | dist10 | dist11 | dist12 | dist13 | dist14
    | dist15 | dist16 | dist17 | dist18 | dist19 | dist20 | dist21 | dist22 | dist23 | dist24 | dist25 | dist26 | dist27 | dist28
    | dist29 => exact exists_operation_dist (by decide) s
  case blockStored f =>
    exact ⟨_, .of_res (F := [.bc, .last, .storedRem, .eng]) (r := elemBlockStored f s) rfl
      (Frames.after ((agree_setLast f s).mono (by decide)) ((frames_storedHeader _).mono (by decide))) rfl (by decide) (.inl rfl)
      (fun h => keeps_storedHeader (core_setLast h f)) fun hP h => hP.keeps_storedHeader (hP.other (s := s) rfl rfl h)⟩
  case blockFixed f =>
    exact ⟨_, .of_ok (F := [.last, .llLen, .llN, .dLen, .dN, .eng]) rfl
      (Agree.trans ((agree_setLast f s).mono (by decide)) (Agree.mono (frames_fixedInstall (s.setLast f)) (by decide))) rfl (by decide)
      (fun h => keeps_fixedInstall (core_setLast h f)) fun hP h => hP.other (s := s) rfl rfl h⟩
  case blockDynamic f =>
    exact ⟨_, .of_res (F := .last :: .bc :: dynamicFields) (r := elemBlockDynamic f s) rfl
      (Frames.after ((agree_setLast f s).mono (by decide)) ((frames_dynamicHeader _).mono (by decide))) rfl (by decide) (.inl rfl)
      (fun h => keeps_dynamicHeader (core_setLast h f)) fun hP h => hP.keeps_dynamicHeader (hP.other (s := s) rfl rfl h)⟩
  case blockReserved f =>
    exact ⟨_, .of_res (F := [.last]) (r := elemBlockReserved f s) rfl (agree_setLast f s) rfl (by decide) (.inl rfl)
      (fun h => core_setLast h f) fun hP h => hP.other (s := s) rfl rfl h⟩
  case storedHdr len nlen =>
    exact ⟨_, .of_res rfl (frames_storedHdr len nlen s) rfl (by decide) (.inl rfl) (keeps_storedHdr len nlen)
      fun hP => hP.keeps_elemStoredHdr len nlen⟩
  case storedByte b =>
    exact ⟨_, .of_res rfl (frames_storedByteElem b s) rfl (by decide) (.inr (elemStoredByte_neverRaises b s)) (keeps_storedByteElem b)
      fun hP => hP.keeps_elemStoredByte b⟩
  case dynHdr hlit hdist hclen =>
    exact ⟨_, .of_res rfl (frames_dynHdr hlit hdist hclen s) rfl (by decide) (.inl rfl) (keeps_dynHdr hlit hdist hclen)
      fun hP => hP.keeps_elemDynHdr hlit hdist hclen⟩
  case clLen l =>
    exact ⟨_, .of_res (r := elemClLen l s) rfl (frames_clLen l s) rfl (by decide) (.inr trivial) (keeps_elemClLen l)
      fun hP h => hP.other (s := s) rfl rfl h⟩
  case clRep16 =>
    exact ⟨_, .of_res rfl (frames_clRep16 s) rfl (by decide) (.inl rfl) (keeps_clElem 16) fun hP => hP.keeps_clElem 16⟩
  case clRep17 =>
    exact ⟨_, .of_res rfl (frames_clRep17 s) rfl (by decide) (.inl rfl) (keeps_clElem 17) fun hP => hP.keeps_clElem 17⟩
  case clRep18 =>
    exact ⟨_, .of_res rfl (frames_clRep18 s) rfl (by decide) (.inl rfl) (keeps_clElem 18) fun hP => hP.keeps_clElem 18⟩
  case lit b =>
    exact ⟨_, .of_res rfl (frames_putAndEmit b s) rfl (by decide) (.inr (putAndEmit_neverRaises b s)) (fun h => keeps_putAndEmit h b)
      fun hP => hP.keeps_putAndEmit b⟩
  case eob => exact ⟨_, .of_ok rfl (agree_blockEnd s) rfl (by decide) core_blockEnd fun hP h => hP.other (s := s) rfl rfl h⟩
  case litlenInvalid low =>
    exact ⟨_, .of_res (F := []) (r := elemLitlenInvalid low s) rfl (Agree.refl _ s) rfl (by decide) (.inl rfl) id fun _ h => h⟩
  case distInvalid low =>
    exact ⟨_, .of_res (F := []) (r := elemDistInvalid low s) rfl (Agree.refl _ s) rfl (by decide) (.inl rfl) id fun _ h => h⟩
  case zlibHdr hd =>
    exact ⟨_, .of_res rfl (frames_zlibHdr hd s) rfl (by decide) (.inl rfl) (keeps_zlibHdr hd) fun hP => hP.keeps_elemZlibHdr hd⟩
  case gzipHdr start =>
    exact ⟨_, .of_res rfl (frames_gzipHdr start s) rfl (by decide) (.inl rfl) (keeps_gzipHdr start) fun hP => hP.keeps_elemGzipHdr start⟩
  case zlibTrl adler =>
    exact ⟨_, .of_res rfl (frames_zlibTrl adler s) rfl (by decide) (.inl rfl) (keeps_zlibTrl adler) fun hP => hP.keeps_elemZlibTrl adler⟩
  case gzipTrl crc isize =>
    exact ⟨_, .of_res rfl (frames_gzipTrl crc isize s) rfl (by decide) (.inl rfl) (keeps_gzipTrl crc isize)
      fun hP => hP.keeps_elemGzipTrl crc isize⟩
  case nop arg => exact ⟨_, .of_respond rfl rfl nofun⟩
  case cmdReserved0909 arg => exact ⟨_, .of_respond rfl rfl nofun⟩
  case cmdReserved0A0B low arg | cmdReserved0C0F low arg | cmdReserved101F low arg | cmdReserved203F low arg | cmdReserved407F low arg
    | cmdReserved80FF low arg => exact ⟨_, .of_respond rfl rfl nofun⟩
  case enterTrailingBits arg =>
    by_cases h : s.canEnterTrailing = true
    · exact ⟨_, .of_ok (F := [.eng, .resp]) (exec_enterTrailingBits arg h)
        (((agree_enterTrailingBits s).mono (by decide)).trans ((agree_respond _ _).mono (by decide))) rfl (by decide)
        (fun hc => core_respond (core_eng hc _) nofun) fun hP h => hP.other (s := s) rfl rfl h⟩
    · exact ⟨_, .of_respond (if_neg h) rfl nofun⟩
  case enterTrailingBytes arg =>
    by_cases h : s.canEnterTrailing = true
    · exact ⟨_, .of_ok (F := [.eng, .bc, .resp]) (exec_enterTrailingBytes arg h)
        (((agree_enterTrailingBytes s).mono (by decide)).trans ((agree_respond _ _).mono (by decide))) rfl (by decide)
        (fun hc => core_respond (core_eng (core_align hc) _) nofun) fun hP h => hP.other (s := s.align) rfl rfl (hP.align h)⟩
    · exact ⟨_, .of_respond (if_neg h) rfl nofun⟩
  case readTrailBit arg =>
    by_cases h : s.inTrailingBits = true
    · exact ⟨_, .of_res (F := [.bc, .resp]) (if_pos h)
        (Frames.bind ((frames_readBit s).mono (by decide)) fun b t => (agree_respond _ t).mono (by decide)) rfl
        (by decide) (.inl rfl) (fun hc => Keeps.bind (keeps_readBit hc) fun b t ht => core_respond ht nofun)
        fun hP hp => Keeps.bind (hP.bit hp) fun b t ht => hP.other (s := t) rfl rfl ht⟩
    · exact ⟨_, .of_respond (if_neg h) rfl nofun⟩
  case readTrailByte arg =>
    by_cases h : s.inTrailingBytes = true
    · exact ⟨_, .of_res (F := [.bc, .resp]) (if_pos h)
        (Frames.bind ((frames_readByte s).mono (by decide)) fun b t => (agree_respond _ t).mono (by decide)) rfl
        (by decide) (.inl rfl) (fun hc => Keeps.bind (keeps_readByte hc) fun b t ht => core_respond ht nofun)
        fun hP hp => Keeps.bind (hP.keeps_readAlignedByte hp) fun b t ht => hP.other (s := t) rfl rfl ht⟩
    · exact ⟨_, .of_respond (if_neg h) rfl nofun⟩
  case getBit arg =>
    by_cases h : s.inTrailingBits = true
    · cases hb : peekBit arg.toNat s with
      | some b => exact ⟨_, .of_respond (exec_getBit_of_some arg h hb) rfl nofun⟩
      | none => exact ⟨_, .of_respond (exec_getBit_of_none arg h hb) rfl nofun⟩
    · exact ⟨_, .of_respond (if_neg h) rfl nofun⟩
  case bcReadBit => exact ⟨_, .of_returning rfl (frames_readBit s) rfl (by decide) (.inl rfl) keeps_readBit fun hP => hP.bit⟩
  case bcReadBits n =>
    exact ⟨_, .of_returning rfl (frames_readBits n s) rfl (by decide) (.inl rfl) (keeps_readBits_any n) fun hP => hP.keeps_readBits n⟩
  case bcAlign => exact ⟨_, .of_setRet rfl (Reads.align s).agree rfl (by decide) core_align fun hP => hP.align⟩
  case bcReadAlignedByte =>
    exact ⟨_, .of_returning rfl (frames_readByte s) rfl (by decide) (.inl rfl) keeps_readByte fun hP => hP.keeps_readAlignedByte⟩
  case bcGetBit k =>
    cases hb : peekBit k s with
    | some b => exact ⟨_, .of_setRet (F := []) (exec_bcGetBit_of_some hb) (Agree.refl _ s) rfl (by decide) id fun _ h => h⟩
    | none => exact ⟨_, .of_respond (exec_bcGetBit_of_none hb) rfl nofun⟩
  case hufBuild lengths =>
    exact ⟨_, .of_returning (F := []) rfl (frames_withTable fun _ => Frames.self _) rfl (by decide) (.inl rfl)
      (fun h => keeps_withTable h fun _ _ => h) fun _ h => keeps_withTable h fun _ _ => h⟩
  case hufDecode lengths =>
    exact ⟨_, .of_returning rfl (frames_withTable fun tab => frames_resolve tab s) rfl (by decide) (.inl rfl)
      (fun h => keeps_withTable h fun tab _ => keeps_resolve tab h) fun hP h => keeps_withTable h fun tab _ => hP.keeps_resolve tab h⟩
  case winCreate m =>
    by_cases hm : 1 ≤ m ∧ m ≤ Config.windowCapacity
    · exact ⟨_, .of_setRet (if_pos hm) (agree_createWindow m s) rfl (by decide) (fun h => core_create h hm.1 hm.2)
        fun hP h => hP.other (s := s) rfl rfl h⟩
    · exact ⟨_, .of_refused (if_neg hm)⟩
  case winPut b =>
    exact ⟨_, .of_returning rfl (frames_winPut b s) rfl (by decide) (.inr (winPut_neverRaises b s)) (fun h => keeps_winPut h b)
      fun hP => hP.keeps_winPut b⟩
  case winPutBulk maxLen bytes =>
    exact ⟨_, .of_returning rfl (frames_winPutBulk maxLen bytes s) rfl (by decide) (.inr (winPutBulk_neverRaises maxLen bytes s))
      (keeps_winPutBulk maxLen bytes)
      fun hP => hP.keeps_winPutBulk maxLen bytes⟩
  case winCopy d =>
    exact ⟨_, .of_returning rfl (frames_winCopy d s) rfl (by decide) (.inl rfl) (fun h => keeps_winCopy h d) fun hP => hP.keeps_winCopy d⟩
  case winCopyBulk d n =>
    exact ⟨_, .of_returning rfl (frames_winCopyBulk d n s) rfl (by decide) (.inl rfl) (keeps_winCopyBulk d n)
      fun hP => hP.keeps_winCopyBulk d n⟩
  case winAvailable => exact ⟨_, .of_setRet (F := []) rfl (Agree.refl _ s) rfl (by decide) id fun _ h => h⟩
  case winClear => exact ⟨_, .of_setRet rfl (agree_clearWindow s) rfl (by decide) core_clear fun hP h => hP.other (s := s) rfl rfl h⟩
  case winRelease => exact ⟨_, .of_setRet rfl (agree_releaseWindow s) rfl (by decide) core_release fun hP h => hP.other (s := s) rfl rfl h⟩
  case winSetCap m =>
    by_cases hm : s.win.mayLower m = true
    · exact ⟨_, .of_setRet (if_pos hm) (agree_lowerCap m s) rfl (by decide) (fun h => core_lowerCap h hm)
        fun hP h => hP.other (s := s) rfl rfl h⟩
    · exact ⟨_, .of_setRet (F := []) (if_neg hm) (Agree.refl _ s) rfl (by decide) id fun _ h => h⟩

end Sys2Proof.Machine
end


section
/-! READ, from any state (47_host_commands R446): what its parts write, and that a byte is put and emitted exactly when it is the byte that
READ answers. An error leaves the window and the output as the header left them (60_exceptions R480). -/

namespace Sys2Proof.Machine

open Sys2Proof

variable {s t u : State}

/-! ## The byte an operation has produced -/

/-- Between `s` and `t` the byte `r` has been put and emitted, or none has (10_state R47, 43_sliding_window R234). -/
def Produced (r : Option Byte) (s t : State) : Prop :=
  match r with
  | some b => t.win = s.win.put b ∧ t.out = s.out ++ [b] ∧ t.outCount = s.outCount + 1
  | none => t.win = s.win ∧ t.out = s.out ∧ t.outCount = s.outCount

/-- The fields a byte is produced in. -/
def productFields : List Field := [.winMem, .winWptr, .winFilled, .winMaxDist, .winAcq, .out, .outCount]

theorem produced_none_of_agree {F : List Field} (h : Agree F s t) (hF : ∀ f ∈ productFields, f ∉ F) : Produced none s t := by
  have hsame : ∀ f ∈ productFields, f.same s t := fun f hf => h f (hF f hf)
  exact ⟨Window.ext (hsame .winMem (by decide)) (hsame .winWptr (by decide)) (hsame .winFilled (by decide))
    (hsame .winMaxDist (by decide)) (hsame .winAcq (by decide)), hsame .out (by decide), hsame .outCount (by decide)⟩

theorem Produced.refl (s : State) : Produced none s s := ⟨rfl, rfl, rfl⟩

theorem Produced.trans {r : Option Byte} (h : Produced none s t) (h' : Produced r t u) : Produced r s u := by
  obtain ⟨hwin, hout, hcount⟩ := h
  cases r <;> simpa only [Produced, hwin, hout, hcount] using h'

theorem Produced.trans_none {r : Option Byte} (h : Produced r s t) (h' : Produced none t u) : Produced r s u := by
  obtain ⟨hwin, hout, hcount⟩ := h'
  cases r <;> simpa only [Produced, hwin, hout, hcount] using h

/-- The operation produces what `f` reads off its value, and nothing where it raises. -/
abbrev Produces {α : Type} (f : α → Option Byte) (s : State) (r : Res α) : Prop :=
  r.Sat True (fun a t => Produced (f a) s t) fun _ t => Produced none s t

theorem Produces.of_frames {α : Type} {F : List Field} {r : Res α} (h : Frames F s r) (hF : ∀ f ∈ productFields, f ∉ F) :
    Produces (fun _ => none) s r :=
  h.weaken (fun _ _ ht => produced_none_of_agree ht hF) fun _ _ ht => produced_none_of_agree ht hF

/-- After an operation that produces nothing, the next one produces what both do. -/
theorem Produces.bind {α β : Type} {g : β → Option Byte} {r : Res α} {k : α → State → Res β} (h : Produces (fun _ => none) s r)
    (hk : ∀ a t, Produces g t (k a t)) : Produces g s (r.bind k) :=
  Res.Sat.bind h fun a t ht => (hk a t).weaken (fun _ _ hu => ht.trans hu) fun _ _ hu => ht.trans hu

theorem produces_putAndEmit (b : Byte) (s : State) : Produces (fun _ => some b) s (putAndEmit b s) := by
  unfold putAndEmit winPut; split
  · exact ⟨rfl, rfl, rfl⟩
  · trivial

theorem produces_storedByte (s : State) : Produces some s (storedByte s) := by
  refine Produces.bind (Produces.of_frames (frames_readByte s) (by decide)) fun b t => ?_
  unfold elemStoredByte; split
  · trivial
  · exact Res.Sat.bind (Q := fun _ u => Produced (some b) t u)
      (Res.Sat.bind (produces_putAndEmit b t) fun _ u hu => hu.trans_none (Produced.refl u)) fun _ _ hu => hu

theorem produces_copyStep (s : State) : Produces some s (copyStep s) := by
  unfold copyStep
  rcases winCopy_cases s.pendDist s with ⟨-, hr⟩ | ⟨-, -, hr⟩ | ⟨-, -, -, hr⟩ | ⟨b, -, -, -, hr⟩ <;> rw [hr]
  · trivial
  · exact Produced.refl s
  · trivial
  · exact ⟨rfl, rfl, rfl⟩

theorem produces_litlenElem (sym : Nat) (s : State) : Produces id s (litlenElem sym s) := by
  unfold litlenElem; split
  · exact Res.Sat.bind (produces_putAndEmit _ s) fun _ _ ht => ht
  split
  · exact Produced.refl s
  split
  · next elem he =>
    exact Produces.bind (Produces.of_frames (frames_lenElem (List.mem_of_getElem? he) s) (by decide)) fun _ u => Produced.refl u
  · exact Produced.refl s

theorem produces_huffStep (s : State) : Produces id s (huffStep s) := by
  unfold huffStep; split
  · exact Res.Sat.bind (produces_copyStep s) fun _ _ ht => ht
  · exact Produces.bind (Produces.of_frames (frames_withTable fun tab => frames_resolve tab s) (by decide)) produces_litlenElem

theorem produces_producePass (s : State) : Produces Option.join s (producePass s) := by
  have hhuff : Produces Option.join s ((huffStep s).bind fun r t =>
      match r with
      | some b => .ok (some (some b)) t
      | none => .ok none t) :=
    Res.Sat.bind (produces_huffStep s) fun r _ ht => by cases r <;> exact ht
  unfold producePass; split
  · exact Produces.bind (Produces.of_frames (frames_blockHeader s) (by decide)) fun _ t => Produced.refl t
  · split
    · exact Produced.refl s
    · exact Res.Sat.bind (produces_storedByte s) fun _ _ ht => ht
  · exact hhuff
  · exact hhuff
  · exact Produced.refl s
  · trivial
  · trivial

theorem produces_produce (n : Nat) (s : State) : Produces id s (produce n s) := by
  induction n generalizing s with
  | zero => trivial
  | succ n ih =>
    refine Res.Sat.bind (produces_producePass s) fun r t ht => ?_
    cases r with
    | some x => exact ht
    | none => exact (ih t).weaken (fun _ _ hu => ht.trans hu) fun _ _ hu => ht.trans hu

/-! ## What READ writes -/

/-- What a READ writes where it ends well. -/
def readFields : List Field := .phase :: .trail :: .resp :: (createFields ++ passFields)

theorem frames_readEnd (r : Option Byte) (s : State) : Frames [.bc, .phase, .eng, .trail, .resp] s (readEnd r s) := by
  unfold readEnd; split
  · exact (agree_respond _ s).mono (by decide)
  · exact Frames.bind ((frames_frameEnd s).mono (by decide)) fun _ t => (agree_respond _ t).mono (by decide)

theorem frames_readHeader (s : State) : Frames (.bc :: .phase :: createFields) s (readHeader s) := by
  unfold readHeader; split
  · exact frames_frameHeader s
  · exact Frames.self _

theorem frames_readBody (s : State) : Frames readFields s (readBody s) :=
  Frames.bind ((frames_readHeader s).mono (by decide)) fun _ t => Frames.bind ((frames_produce _ t).mono (by decide)) fun r u =>
    (frames_readEnd r u).mono (by decide)

/-! ## The phase READ leaves, and its answer -/

theorem readHeader_phase (h : s.phase = .header ∨ s.phase = .body) :
    (readHeader s).Sat True (fun _ t => t.phase = .body) fun _ _ => True := by
  unfold readHeader; split
  · exact (sat_trivial (headerOf s.frame s)).bind fun _ _ _ => rfl
  · next hne => exact h.resolve_left hne

theorem frameEnd_phase (s : State) : (frameEnd s).Sat True (fun _ t => t.phase = .done) fun _ _ => True :=
  (sat_trivial (trailerOf s.frame s)).bind fun _ _ _ => rfl

/-- READ answers the byte it has emitted, with the phase Body, or EOD, with the phase Done and nothing emitted; an error emits nothing. -/
theorem readBody_answers (h : s.phase = .header ∨ s.phase = .body) :
    (readBody s).Sat True
      (fun _ t => (∃ b, t.resp = .data b ∧ t.out = s.out ++ [b] ∧ t.phase = .body) ∨ (t.resp = .eod ∧ t.out = s.out ∧ t.phase = .done))
      fun _ t => t.out = s.out ∧ t.outCount = s.outCount := by
  have hhead : (readHeader s).Sat True (fun _ t => t.phase = .body ∧ t.out = s.out ∧ t.outCount = s.outCount)
      fun _ t => t.out = s.out ∧ t.outCount = s.outCount :=
    ((readHeader_phase h).and (frames_readHeader s)).weaken
      (fun _ _ ht => ⟨ht.1, ht.2 .out (by decide), ht.2 .outCount (by decide)⟩)
      fun _ _ ht => ⟨ht.2 .out (by decide), ht.2 .outCount (by decide)⟩
  refine hhead.bind ?_
  rintro _ t ⟨hphase, hout, hcount⟩
  rw [← hout, ← hcount]
  refine ((produces_produce _ t).and (frames_produce _ t)).weaken (Q' := fun r u => Produced r t u ∧ u.phase = .body)
    (fun r u hu => ⟨hu.1, Eq.trans (hu.2 .phase (by decide)) hphase⟩) (fun _ u hu => hu.1.2) |>.bind ?_
  rintro r u ⟨hprod, hbody⟩
  cases r with
  | some b => exact .inl ⟨b, rfl, hprod.2.1, hbody⟩
  | none =>
    obtain ⟨-, hout', hcount'⟩ := hprod
    rw [← hout', ← hcount']
    refine ((frameEnd_phase u).and (frames_frameEnd u)).weaken (Q' := fun _ v => v.phase = .done ∧ v.out = u.out)
      (fun _ v hv => ⟨hv.1, hv.2 .out (by decide)⟩) (fun _ v hv => ⟨hv.2 .out (by decide), hv.2 .outCount (by decide)⟩) |>.bind ?_
    exact fun _ v hv => .inr ⟨rfl, hv.2, hv.1⟩

/-! ## READ as an instruction -/

theorem exec_read_open (arg : BitVec 24) (h : s.phase = .header ∨ s.phase = .body) : exec (.read arg) s = (readBody s).finish := by
  show execRead arg s = _
  rcases h with h | h <;> simp only [execRead, h]

/-- READ outside an open session only answers. -/
theorem exec_read_closed (arg : BitVec 24) (h : ¬(s.phase = .header ∨ s.phase = .body)) :
    ∃ r : Resp, exec (.read arg) s = .next (s.respond r)
      ∧ (r = .reject .badState ∨ r = .eod ∨ (s.phase = .failed ∧ r = .error (errCode s.err))) := by
  show ∃ r, execRead arg s = _ ∧ _
  cases hp : s.phase
  case header => exact absurd (.inl hp) h
  case body => exact absurd (.inr hp) h
  all_goals simp only [execRead, hp]
  case failed => exact ⟨_, rfl, .inr (.inr ⟨trivial, rfl⟩)⟩
  case done => exact ⟨_, rfl, .inr (.inl rfl)⟩
  all_goals exact ⟨_, rfl, .inl rfl⟩

/-- Everything START can do. -/
theorem exec_start_cases (arg : BitVec 24) (s : State) :
    (s.canStart = true ∧ exec (.start arg) s = .next (s.openSession.respond .ok))
      ∨ (s.canStart = false ∧ exec (.start arg) s = .next (s.respond (.reject .badState))) := by
  cases h : s.canStart
  · exact .inr ⟨rfl, if_neg (by simp [h])⟩
  · exact .inl ⟨rfl, if_pos h⟩

theorem exec_release (arg : BitVec 24) (s : State) :
    exec (.release arg) s = .next (s.releaseWindow.endSession.respond (.data (bitByte s.win.acq))) := rfl

/-! ## What READ keeps of the stream -/

namespace StreamClosed

variable {P : State → Prop} (hP : StreamClosed P)
include hP

theorem keeps_blockHeader (h : P s) : Keeps P (blockHeader s) :=
  Keeps.bind (hP.bit h) fun b t h1 => Keeps.bind (hP.keeps_readBits 2 (hP.other (s := t) rfl rfl h1)) fun n _ h2 => hP.keeps_blockElem b n h2

theorem keeps_storedByte (h : P s) : Keeps P (storedByte s) :=
  Keeps.bind (hP.keeps_readAlignedByte h) fun b _ h1 => Keeps.bind (hP.keeps_elemStoredByte b h1) fun _ _ h2 => h2

theorem keeps_huffStep (h : P s) : Keeps P (huffStep s) := by
  unfold huffStep; split
  · exact Keeps.bind (Keeps.bind (hP.keeps_winCopy _ h) fun _ t h1 => hP.other (s := t) rfl rfl h1) fun _ _ h2 => h2
  · exact Keeps.bind (keeps_withTable h fun tab _ => hP.keeps_resolve tab h) fun sym _ h1 => hP.keeps_litlenElem sym h1

theorem keeps_producePass (h : P s) : Keeps P (producePass s) := by
  have hhuff : Keeps P ((huffStep s).bind fun r t =>
      match r with
      | some b => .ok (some (some b)) t
      | none => .ok none t) :=
    Keeps.bind (hP.keeps_huffStep h) fun r _ ht => by cases r <;> exact ht
  unfold producePass; split
  · exact Keeps.bind (hP.keeps_blockHeader h) fun _ _ h1 => h1
  · split
    · exact hP.other (s := s) rfl rfl h
    · exact Keeps.bind (hP.keeps_storedByte h) fun _ _ h1 => h1
  · exact hhuff
  · exact hhuff
  · exact h
  · trivial
  · trivial

theorem keeps_produce (n : Nat) {s : State} (h : P s) : Keeps P (produce n s) := by
  induction n generalizing s with
  | zero => trivial
  | succ n ih =>
    refine Keeps.bind (hP.keeps_producePass h) fun r _ h1 => ?_
    split
    · exact h1
    · exact ih h1

theorem keeps_checkedByte (k : Nat) (h : P s) : Keeps P (checkedByte k s) :=
  Keeps.bind (hP.keeps_readAlignedByte h) fun _ _ h1 => by split <;> exact h1

theorem keeps_headerOf (f : Frame) (h : P s) : Keeps P (headerOf f s) := by
  cases f with
  | raw => exact h
  | zlib =>
    exact Keeps.bind (hP.keeps_readAlignedByte h) fun _ _ h1 => Keeps.bind (hP.keeps_readAlignedByte h1) fun _ _ h2 =>
      hP.keeps_elemZlibHdr _ h2
  | gzip =>
    exact Keeps.bind (hP.keeps_checkedByte 0 h) fun _ _ h1 => Keeps.bind (hP.keeps_checkedByte 1 h1) fun _ _ h2 =>
      Keeps.bind (hP.keeps_checkedByte 2 h2) fun _ _ h3 => Keeps.bind (hP.keeps_checkedByte 3 h3) fun _ _ h4 => hP.keeps_elemGzipHdr _ h4

theorem keeps_trailerOf (f : Frame) (h : P s) : Keeps P (trailerOf f s) := by
  have henter : P s.enterTrailer := hP.other (s := s.align) rfl rfl (hP.align h)
  cases f with
  | raw => exact h
  | zlib => exact Keeps.bind (hP.keeps_readBytes 4 henter) fun _ _ h1 => hP.keeps_elemZlibTrl _ h1
  | gzip => exact Keeps.bind (hP.keeps_readBytes 8 henter) fun _ _ h1 => hP.keeps_elemGzipTrl _ _ h1

theorem keeps_frameEnd (h : P s) : Keeps P (frameEnd s) :=
  Keeps.bind (hP.keeps_trailerOf _ h) fun _ t h1 => hP.other (s := t) rfl rfl h1

theorem keeps_readHeader (h : P s) : Keeps P (readHeader s) := by
  unfold readHeader; split
  · exact Keeps.bind (hP.keeps_headerOf _ h) fun _ t h1 => hP.other (s := t) rfl rfl h1
  · exact h

theorem keeps_readEnd (r : Option Byte) (h : P s) : Keeps P (readEnd r s) := by
  cases r with
  | some b => exact hP.other (s := s) rfl rfl h
  | none => exact Keeps.bind (hP.keeps_frameEnd h) fun _ t h1 => hP.other (s := t) rfl rfl h1

theorem keeps_readBody (h : P s) : Keeps P (readBody s) :=
  Keeps.bind (hP.keeps_readHeader h) fun _ _ h1 => Keeps.bind (hP.keeps_produce _ h1) fun r _ h2 => hP.keeps_readEnd r h2

end StreamClosed

end Sys2Proof.Machine
end


section
/-! One step of the block from any state (10_state R62): what a request runs, the invariant `Inv`, and the whole-machine rules that hold of every
instruction. -/

namespace Sys2Proof.Machine

open Sys2Proof

variable {s t : State} {i : Instr}

/-! ## What a request runs -/

/-- The request runs the word `w`: an element or a micro-operation by itself, or a CTRL write (log 1, log 2). -/
def Request.Runs (r : Request) (w : InstrWord) : Prop :=
  r = .instr w ∨ ∃ v : Word, r = .write 0x00 4 v ∧ w = .plain .hostCmd v.toNat

theorem runWord_of_decode {w : InstrWord} (h : decode w = .ok i) (s : State) : runWord w s = exec i s := by
  rw [runWord, h]

theorem runWord_next {w : InstrWord} (h : runWord w s = .next t) : ∃ i, decode w = .ok i ∧ exec i s = .next t := by
  cases hd : decode w with
  | ok i => exact ⟨i, rfl, by rwa [runWord, hd] at h⟩
  | error e => rw [runWord, hd] at h; cases h

theorem wordAccess_iff (off size : Nat) : wordAccess off size = true ↔ size = 4 ∧ off % 4 = 0 := by
  simp only [wordAccess, Bool.and_eq_true, beq_iff_eq]

theorem serve_word {r : Request} {w : InstrWord} (h : r.Runs w) (s : State) : serve r s = runWord w s := by
  rcases h with rfl | ⟨v, rfl, rfl⟩ <;> rfl

/-- Everything a served request can do. -/
theorem serve_cases {r : Request} (h : serve r s = .next t) :
    (∃ w i, r.Runs w ∧ decode w = .ok i ∧ exec i s = .next t)
      ∨ (∃ off v, r = .write off 4 v ∧ t = writeReg off v s)
      ∨ (∃ off, r = .read off 4 ∧ t = s.serveRead off)
      ∨ (∃ bytes, r = .supply bytes ∧ t = s.supplySource bytes)
      ∨ (r = .reset ∧ t = s.resetBlock) := by
  have hword {r' : Request} {w : InstrWord} (hr : r'.Runs w) (h : runWord w s = .next t) :
      ∃ w i, r'.Runs w ∧ decode w = .ok i ∧ exec i s = .next t := by
    obtain ⟨i, hd, he⟩ := runWord_next h
    exact ⟨w, i, hr, hd, he⟩
  cases r with
  | write off size v =>
    simp only [serve] at h
    split at h
    · next haccess =>
      obtain ⟨rfl, -⟩ := (wordAccess_iff off size).1 haccess
      split at h
      · next hoff => exact .inl (hword (.inr ⟨v, by rw [hoff, ctrlOffset], rfl⟩) h)
      · exact .inr (.inl ⟨off, v, rfl, by cases h; rfl⟩)
    · cases h
  | read off size =>
    simp only [serve] at h
    split at h
    · next haccess =>
      obtain ⟨rfl, -⟩ := (wordAccess_iff off size).1 haccess
      exact .inr (.inr (.inl ⟨off, rfl, by cases h; rfl⟩))
    · cases h
  | supply bytes => exact .inr (.inr (.inr (.inl ⟨bytes, rfl, by cases h; rfl⟩)))
  | reset => exact .inr (.inr (.inr (.inr ⟨rfl, by cases h; rfl⟩)))
  | instr w => exact .inl (hword (.inl rfl) h)

theorem step_of_queue {r : Request} {rest : List Request} (h : s.queue = r :: rest) : step s = serve r (s.withQueue rest) := by
  rw [step, h]

/-- A step waits, or serves the oldest request. -/
theorem step_cases (h : step s = .next t) :
    t = s ∨ ∃ r rest, s.queue = r :: rest ∧ serve r (s.withQueue rest) = .next t := by
  cases hq : s.queue with
  | nil => exact .inl (by rw [step, hq] at h; cases h; rfl)
  | cons r rest => exact .inr ⟨r, rest, rfl, by rwa [step_of_queue hq] at h⟩

/-- Settles O4: the request's word is run on the state without the request. -/
theorem stepRunsDecodedInstruction : Obligations.StepRunsDecodedInstruction := by
  intro s rest i
  refine ⟨fun w hq hd => ?_, fun v hq hd => ?_⟩
  · rw [step_of_queue hq, serve_word (.inl rfl), runWord_of_decode hd]
    rfl
  · rw [step_of_queue hq, serve_word (.inr ⟨v, rfl, rfl⟩), runWord_of_decode hd]
    rfl

/-! ## Fields no instruction writes, or only START -/

theorem configuration_not_written (i : Instr) : Field.cfgFrame ∉ writes i ∧ Field.maxDistReg ∉ writes i := by
  cases i <;> exact of_decide_eq_true rfl

theorem frame_not_written (hi : isSessionCommand i = false) : Field.frame ∉ writes i := by
  cases i
  case start => cases hi
  all_goals exact of_decide_eq_true rfl

/-! ## The phase and the latched error (60_exceptions R480, R490) -/

theorem phaseOk_latch (e : StreamError) (s : State) : PhaseOk (s.latch e) :=
  ⟨by simp, by simp, by simp, fun _ => .inl rfl⟩

/-- A change that keeps the phase, the frame and the latched error. -/
theorem PhaseOk.of_same (h : PhaseOk s) (hphase : t.phase = s.phase) (hframe : t.frame = s.frame) (herr : t.err = s.err) : PhaseOk t := by
  unfold PhaseOk
  rwa [hphase, hframe, herr]

theorem PhaseOk.err_of_open (h : PhaseOk s) (hopen : s.phase = .header ∨ s.phase = .body) : s.err = none := by
  obtain ⟨-, -, -, herr⟩ := h
  by_contra hne
  rcases herr hne with h1 | h1 <;> rcases hopen with h2 | h2 <;> rw [h1] at h2 <;> cases h2

/-! ## Inv, instruction by instruction -/

theorem Operation.keeps_inv {r : Res Unit} (ho : Operation i s r) (hframe : Field.frame ∉ writes i) (h : Inv s)
    (ht : exec i s = .next t) : Inv t := by
  obtain ⟨hcore, hphase⟩ := (inv_iff s).1 h
  obtain ⟨F, hF, hsub, hp, he⟩ := ho.frame
  have hk := ho.core hcore
  rw [ho.run] at ht
  rcases finish_next ht with rfl | ⟨e, u, rfl, rfl⟩
  · exact (inv_iff t).2 ⟨hk, hphase.of_same (hF .phase hp) (hF .frame fun hm => hframe (hsub hm)) (hF .err he)⟩
  · exact (inv_iff _).2 ⟨CoreOk.latch hk e, phaseOk_latch e u⟩

/-- A code table of no lengths. -/
theorem tableOk_empty (cap : Nat) : TableOk cap 0 (List.replicate cap 0) := by
  have h := tableOk_install (cap := cap) (lens := []) (Nat.zero_le _) (t := ⟨[], 0⟩) rfl
  simpa [padTo] using h

theorem startWindow_legal (h : maxDistLegal s.maxDistReg = true) : 1 ≤ startWindow s ∧ startWindow s ≤ Config.windowCapacity := by
  simp only [maxDistLegal, Bool.and_eq_true, decide_eq_true_eq] at h
  unfold startWindow; split
  · decide
  · exact h

theorem core_openSession (h : CoreOk s) : CoreOk s.openSession where
  cursor := ⟨Nat.zero_le _, fun _ => ⟨rfl, rfl⟩, nofun, (by decide : (8 : Fin 9) ≠ 0)⟩
  window := windowOk_create h.window (startWindow_legal h.registers.2.1).1 (startWindow_legal h.registers.2.1).2
  litlen := tableOk_empty 288
  dist := tableOk_empty 32
  copy := ⟨by simp, by simp, fun h => absurd h (Nat.lt_irrefl 0)⟩
  scratch := h.scratch
  registers := ⟨rfl, h.registers.2⟩

theorem phaseOk_openSession (s : State) : PhaseOk s.openSession := by
  unfold PhaseOk
  simp only [openSession_phase, openSession_frame, openSession_err]
  split <;> simp_all

theorem start_keeps_inv (arg : BitVec 24) (h : Inv s) (ht : exec (.start arg) s = .next t) : Inv t := by
  obtain ⟨hcore, hphase⟩ := (inv_iff s).1 h
  rcases exec_start_cases arg s with ⟨-, he⟩ | ⟨-, he⟩ <;> rw [he] at ht <;> cases ht
  · exact (inv_iff _).2 ⟨core_respond (core_openSession hcore) nofun, phaseOk_openSession s⟩
  · exact (inv_iff _).2 ⟨core_respond hcore nofun, hphase⟩

theorem release_keeps_inv (arg : BitVec 24) (h : Inv s) (ht : exec (.release arg) s = .next t) : Inv t := by
  obtain ⟨hcore, hphase⟩ := (inv_iff s).1 h
  rw [exec_release] at ht
  cases ht
  have hend : CoreOk s.releaseWindow.endSession := core_phase (core_release hcore) _
  refine (inv_iff _).2 ⟨core_respond hend nofun, ?_⟩
  obtain ⟨-, -, -, herr⟩ := hphase
  by_cases hidle : s.phase = .idle
  · have hp : s.releaseWindow.endSession.phase = .idle := if_pos hidle
    unfold PhaseOk
    rw [respond_phase, hp]
    refine ⟨nofun, nofun, nofun, fun he => ?_⟩
    rcases herr he with hf | hr
    · exact absurd (hidle.symm.trans hf) nofun
    · exact absurd (hidle.symm.trans hr) nofun
  · have hp : s.releaseWindow.endSession.phase = .released := if_neg hidle
    unfold PhaseOk
    rw [respond_phase, hp]
    exact ⟨nofun, nofun, nofun, fun _ => .inr rfl⟩

theorem read_keeps_inv (arg : BitVec 24) (h : Inv s) (ht : exec (.read arg) s = .next t) : Inv t := by
  obtain ⟨hcore, hphase⟩ := (inv_iff s).1 h
  by_cases hopen : s.phase = .header ∨ s.phase = .body
  · have herr := hphase.err_of_open hopen
    rw [exec_read_open arg hopen] at ht
    refine Res.Sat.finish (P := Inv) ?_ ht
    refine (((keeps_readBody hcore).and (frames_readBody s)).and (readBody_answers hopen)).weaken ?_
      fun e u hu => (inv_iff _).2 ⟨hu.1.1.latch e, phaseOk_latch e u⟩
    rintro _ u ⟨⟨hu, hframe⟩, hans⟩
    have huerr : u.err = none := Eq.trans (hframe .err (by decide)) herr
    refine (inv_iff _).2 ⟨hu, ?_⟩
    unfold PhaseOk
    rcases hans with ⟨b, -, -, hp⟩ | ⟨-, -, hp⟩ <;> simp [hp, huerr]
  · obtain ⟨r, he, hr⟩ := exec_read_closed arg hopen
    rw [he] at ht
    cases ht
    refine (inv_iff _).2 ⟨core_respond hcore fun c hc => ?_, hphase⟩
    rcases hr with rfl | rfl | ⟨hfailed, rfl⟩
    · cases hc
    · cases hc
    · obtain ⟨-, -, hne, -⟩ := hphase
      obtain ⟨e, herr⟩ := Option.ne_none_iff_exists'.1 (hne hfailed)
      rw [herr] at hc
      cases hc
      exact e.code_range

theorem exec_keeps_inv (h : Inv s) (ht : exec i s = .next t) : Inv t := by
  cases hi : isSessionCommand i with
  | false =>
    obtain ⟨r, ho⟩ := exists_operation hi s
    exact ho.keeps_inv (frame_not_written hi) h ht
  | true =>
    cases i
    case start arg => exact start_keeps_inv arg h ht
    case read arg => exact read_keeps_inv arg h ht
    case release arg => exact release_keeps_inv arg h ht
    all_goals cases hi

/-! ## Inv, request by request -/

theorem windowOk_reset : WindowOk Window.reset :=
  ⟨by decide, by decide, by decide, by decide, reset_wf, fun _ h1 h2 => absurd h1 (Nat.not_le.2 (Nat.lt_succ_of_le h2))⟩

theorem scratchOk_reset : ScratchOk Scratch.reset := ⟨by decide, by decide, by decide, by decide, by decide, by decide⟩

theorem inv_resetBlock (s : State) : Inv s.resetBlock := by
  refine (inv_iff _).2 ⟨⟨?_, windowOk_reset, tableOk_empty 288, tableOk_empty 32, ?_, scratchOk_reset, rfl, rfl, nofun⟩, ?_⟩
  · exact ⟨Nat.le_refl 0, fun _ => ⟨rfl, rfl⟩, nofun, (by decide : (8 : Fin 9) ≠ 0)⟩
  · exact ⟨Nat.zero_le _, Nat.zero_le _, fun h => absurd h (Nat.lt_irrefl 0)⟩
  · exact ⟨nofun, nofun, nofun, fun h => absurd rfl h⟩

theorem writeConfig_keeps_inv (v : Word) (h : Inv s) : Inv (writeConfig v s) := by
  unfold writeConfig
  split
  · split <;> exact h
  · exact h

theorem writeMaxDist_keeps_inv (v : Word) (h : Inv s) : Inv (writeMaxDist v s) := by
  unfold writeMaxDist
  split
  · next hlegal =>
    obtain ⟨h1, h2, h3, h4, h5, h6, h7, hcount, -, hresp⟩ := h
    exact ⟨h1, h2, h3, h4, h5, h6, h7, hcount, (Bool.and_eq_true _ _ ▸ hlegal).1, hresp⟩
  · exact h

theorem writeReg_keeps_inv (off : Nat) (v : Word) (h : Inv s) : Inv (writeReg off v s) := by
  unfold writeReg
  split
  · exact writeConfig_keeps_inv v h
  · exact writeMaxDist_keeps_inv v h
  · exact h

/-- Settles O11: instruction by instruction and request by request. -/
theorem everyStepKeepsInv : Obligations.EveryStepKeepsInv := by
  intro s t h hstep
  rcases step_cases hstep with rfl | ⟨r, rest, -, hserve⟩
  · exact h
  have hq : Inv (s.withQueue rest) := h
  rcases serve_cases hserve with ⟨_, _, -, -, hexec⟩ | ⟨off, v, -, rfl⟩ | ⟨off, -, rfl⟩ | ⟨bytes, -, rfl⟩ | ⟨-, rfl⟩
  · exact exec_keeps_inv hq hexec
  · exact writeReg_keeps_inv off v hq
  · exact hq
  · exact hq
  · exact inv_resetBlock _

/-! ## Frames -/

/-- What a step that latched an error, or did not, has written. -/
theorem Operation.agree {r : Res Unit} (ho : Operation i s r) (ht : exec i s = .next t) : Agree (writes i) s t := by
  obtain ⟨F, hF, hsub, -, -⟩ := ho.frame
  have hraises := ho.raises
  rw [ho.run] at ht
  rcases finish_next ht with rfl | ⟨e, u, rfl, rfl⟩
  · exact Agree.mono hF hsub
  · exact (Agree.mono hF hsub).trans ((agree_latch e u).mono hraises)

theorem agree_openSession (s : State) : Agree (writes (.start 0)) s s.openSession := by
  intro f hf
  cases f
  case phase | eng | last | frame | storedRem | bc | llLen | llN | dLen | dN | pendLen | pendDist | winWptr | winFilled | winMaxDist | winAcq | out
      | outCount | err | trail | src => exact absurd (by decide) hf
  all_goals rfl

theorem agree_endSession (s : State) : Agree [.phase] s s.endSession := by
  intro f hf
  cases f
  case phase => exact absurd (by decide) hf
  all_goals rfl

/-- Every instruction leaves the fields outside its list. -/
theorem exec_agree (ht : exec i s = .next t) : Agree (writes i) s t := by
  cases hi : isSessionCommand i with
  | false =>
    obtain ⟨r, ho⟩ := exists_operation hi s
    exact ho.agree ht
  | true =>
    cases i
    case start arg =>
      rcases exec_start_cases arg s with ⟨-, he⟩ | ⟨-, he⟩ <;> rw [he] at ht <;> cases ht
      · exact (agree_openSession s).trans ((agree_respond _ _).mono (of_decide_eq_true rfl))
      · exact (agree_respond _ s).mono (of_decide_eq_true rfl)
    case read arg =>
      by_cases hopen : s.phase = .header ∨ s.phase = .body
      · rw [exec_read_open arg hopen] at ht
        exact (Frames.finish (frames_readBody s) ht).mono (of_decide_eq_true rfl)
      · obtain ⟨r, he, -⟩ := exec_read_closed arg hopen
        rw [he] at ht
        cases ht
        exact (agree_respond _ s).mono (of_decide_eq_true rfl)
    case release arg =>
      rw [exec_release] at ht
      cases ht
      exact ((agree_releaseWindow s).mono (of_decide_eq_true rfl)).trans
        (((agree_endSession _).mono (of_decide_eq_true rfl)).trans ((agree_respond _ _).mono (of_decide_eq_true rfl)))
    all_goals cases hi

/-- Settles O6: an element's operation writes within its list, and takes an error only where the list has what that writes. -/
theorem elementsLeaveOtherFields : Obligations.ElementsLeaveOtherFields := fun _ _ _ _ _ h => exec_agree h

/-- Settles O7: START, READ and RELEASE write within their lists too. -/
theorem commandsLeaveOtherFields : Obligations.CommandsLeaveOtherFields := fun _ _ _ _ h => exec_agree h

/-- Settles O8: a micro-operation writes what its operation writes, and its result. -/
theorem microOpsLeaveOtherFields : Obligations.MicroOpsLeaveOtherFields := fun _ _ _ _ h => exec_agree h

/-! ## Entering Failed (60_exceptions R480) -/

theorem latched_out (hi : isSessionCommand i = false) (h : latchFields ⊆ writes i) : Field.out ∉ writes i ∧ Field.outCount ∉ writes i := by
  cases i
  case start => cases hi
  case read => cases hi
  case lit b => exact absurd (h (List.mem_cons_self (a := Field.phase))) (of_decide_eq_true rfl)
  case storedByte b => exact absurd (h (List.mem_cons_self (a := Field.phase))) (of_decide_eq_true rfl)
  all_goals exact of_decide_eq_true rfl

/-- Settles O15: an instruction changes the phase to Failed only by latching, and one that latches has emitted nothing. -/
theorem errorsLatchPrecisely : Obligations.ErrorsLatchPrecisely := by
  intro i s t ht hs hfailed
  cases hi : isSessionCommand i with
  | false =>
    obtain ⟨r, ho⟩ := exists_operation hi s
    have hagree := ho.agree ht
    obtain ⟨F, hF, -, hp, -⟩ := ho.frame
    have hraises := ho.raises
    rw [ho.run] at ht
    rcases finish_next ht with rfl | ⟨e, u, rfl, rfl⟩
    · exact absurd ((hF .phase hp).symm.trans hfailed) hs
    · obtain ⟨hout, hcount⟩ := latched_out hi hraises
      exact ⟨e, rfl, rfl, hagree .out hout, hagree .outCount hcount⟩
  | true =>
    cases i
    case start arg =>
      rcases exec_start_cases arg s with ⟨-, he⟩ | ⟨-, he⟩ <;> rw [he] at ht <;> cases ht
      · simp only [respond_phase, openSession_phase] at hfailed
        split at hfailed <;> cases hfailed
      · exact absurd hfailed hs
    case read arg =>
      by_cases hopen : s.phase = .header ∨ s.phase = .body
      · have hans := readBody_answers hopen
        rw [exec_read_open arg hopen] at ht
        rcases finish_next ht with hr | ⟨e, u, hr, rfl⟩ <;> rw [hr] at hans
        · rcases hans with ⟨b, -, -, hp⟩ | ⟨-, -, hp⟩ <;> rw [hp] at hfailed <;> cases hfailed
        · exact ⟨e, rfl, rfl, hans.1, hans.2⟩
      · obtain ⟨r, he, -⟩ := exec_read_closed arg hopen
        rw [he] at ht
        cases ht
        exact absurd hfailed hs
    case release arg =>
      rw [exec_release] at ht
      cases ht
      simp only [respond_phase, endSession_phase] at hfailed
      split at hfailed <;> cases hfailed
    all_goals cases hi

/-! ## The stream position and the configuration -/

/-- The cursor stands in the source, at `k` bits or later: what every read and every alignment keeps (10_state R41). -/
def AtLeast (k : Nat) (s : State) : Prop := CursorOk s ∧ k ≤ s.bitpos

theorem streamClosed_atLeast (k : Nat) : StreamClosed (AtLeast k) where
  bit {s} h := Sat.mono_stop ((readBit_reads s).weaken
    (fun _ t ht => ⟨ht.1.cursor h.1, Nat.le_trans h.2 (ht.1.position h.1)⟩) fun _ _ ht => ht.2 ▸ h)
  align {s} h := ⟨cursorOk_align h.1, Nat.le_trans h.2 (bitpos_align s)⟩
  other hbc hsrc h := by
    unfold AtLeast CursorOk State.bitpos
    rw [hbc, hsrc]
    exact h

theorem exec_position (hs : CursorOk s) (ht : exec i s = .next t) : s.bitpos ≤ t.bitpos ∨ ∃ arg, i = .start arg := by
  have hP := streamClosed_atLeast s.bitpos
  have hstart : AtLeast s.bitpos s := ⟨hs, Nat.le_refl _⟩
  have hfinish {r : Res Unit} (hk : Keeps (AtLeast s.bitpos) r) (hr : r.finish = .next t) : s.bitpos ≤ t.bitpos :=
    (Res.Sat.finish (P := AtLeast s.bitpos) (hk.weaken (fun _ _ h => h) fun _ u h => hP.other (s := u) rfl rfl h) hr).2
  cases hi : isSessionCommand i with
  | false =>
    obtain ⟨r, ho⟩ := exists_operation hi s
    rw [ho.run] at ht
    exact .inl (hfinish (ho.stream hP hstart) ht)
  | true =>
    cases i
    case start arg => exact .inr ⟨arg, rfl⟩
    case read arg =>
      by_cases hopen : s.phase = .header ∨ s.phase = .body
      · rw [exec_read_open arg hopen] at ht
        exact .inl (hfinish (hP.keeps_readBody hstart) ht)
      · obtain ⟨r, he, -⟩ := exec_read_closed arg hopen
        rw [he] at ht
        cases ht
        exact .inl (Nat.le_refl _)
    case release arg =>
      rw [exec_release] at ht
      cases ht
      exact .inl (Nat.le_refl _)
    all_goals cases hi

theorem writeReg_bc (off : Nat) (v : Word) (s : State) : (writeReg off v s).bc = s.bc := by
  unfold writeReg
  split
  · unfold writeConfig; split
    · split <;> rfl
    · rfl
  · unfold writeMaxDist; split <;> rfl
  · rfl

/-- Settles O16: reads and alignments move the position on, and no other instruction but START moves it. -/
theorem streamPositionNeverDecreases : Obligations.StreamPositionNeverDecreases := by
  intro s t h hstep
  rcases step_cases hstep with rfl | ⟨r, rest, hq, hserve⟩
  · exact .inl (Nat.le_refl _)
  rw [hq, List.head?_cons]
  rcases serve_cases hserve with ⟨w, i, hruns, hd, hexec⟩ | ⟨off, v, -, rfl⟩ | ⟨off, -, rfl⟩ | ⟨bytes, -, rfl⟩ | ⟨rfl, -⟩
  · rcases exec_position (s := s.withQueue rest) h.1 hexec with hle | ⟨arg, rfl⟩
    · exact .inl hle
    · rcases hruns with rfl | ⟨v, rfl, rfl⟩
      · exact .inr (.inr (.inr ⟨w, arg, rfl, hd⟩))
      · exact .inr (.inr (.inl ⟨v, arg, rfl, hd⟩))
  · refine .inl (Nat.le_of_eq ?_)
    rw [State.bitpos, State.bitpos, writeReg_bc]
    rfl
  · exact .inl (Nat.le_refl _)
  · exact .inl (Nat.le_refl _)
  · exact .inr (.inl rfl)

theorem writeReg_locked (off : Nat) (v : Word) (h : s.configurable = false) : writeReg off v s = s := by
  unfold writeReg
  split
  · unfold writeConfig; split <;> simp [h]
  · simp [writeMaxDist, h]
  · rfl

theorem configurable_iff : s.configurable = true ↔ s.phase = .idle ∨ s.phase = .released := by
  simp only [State.configurable, Bool.or_eq_true, beq_iff_eq]

/-- Settles O17: no instruction writes the two registers, and their own writes are ignored in a session. -/
theorem configurationIsStableInASession : Obligations.ConfigurationIsStableInASession := by
  intro s t hstep hidle hreleased hreset
  rcases step_cases hstep with rfl | ⟨r, rest, hq, hserve⟩
  · exact ⟨rfl, rfl⟩
  rw [hq, List.head?_cons] at hreset
  rcases serve_cases hserve with ⟨w, i, -, -, hexec⟩ | ⟨off, v, -, rfl⟩ | ⟨off, -, rfl⟩ | ⟨bytes, -, rfl⟩ | ⟨rfl, -⟩
  · obtain ⟨hframe, hdist⟩ := configuration_not_written i
    have hagree := exec_agree hexec
    exact ⟨hagree .cfgFrame hframe, hagree .maxDistReg hdist⟩
  · have hlocked : (s.withQueue rest).configurable = false :=
      Bool.eq_false_iff.2 fun hc => (configurable_iff.1 hc).elim hidle hreleased
    rw [writeReg_locked off v hlocked]
    exact ⟨rfl, rfl⟩
  · exact ⟨rfl, rfl⟩
  · exact ⟨rfl, rfl⟩
  · exact absurd rfl hreset

end Sys2Proof.Machine
end


section
/-! Built codes as bit strings (41_canonical_huffman R185, 42_symbol_resolver R211 to R215). The codes of a table lie in disjoint intervals of the
scale of 15-bit codes, so none begins another; a candidate `c` of `L` bits stands for the string `codeBits c L`, so the resolver takes the one
code the stream begins with, and no other string of bits ends it early. -/

namespace Sys2Proof.Machine

open Sys2Proof

variable {lengths : List Nat} {tab : CodeTable} {c d e : Code}

/-! ## Codes do not begin one another -/

theorem code_val_lt (h : buildCodes lengths = .ok tab) (hc : c ∈ tab.codes) : c.val < 2 ^ c.len := by
  obtain ⟨-, hkraft, -⟩ := buildCodes_ok h
  obtain ⟨-, hlen, -, -, -, hend⟩ := code_interval h hc
  have hscale : 2 ^ 15 = 2 ^ c.len * 2 ^ (15 - c.len) := by rw [← Nat.pow_add]; congr 1; omega
  have hle : (c.val + 1) * 2 ^ (15 - c.len) ≤ 2 ^ c.len * 2 ^ (15 - c.len) := by
    calc (c.val + 1) * 2 ^ (15 - c.len) ≤ kraftBelow lengths (c.len + 1) := hend
      _ ≤ kraftBelow lengths 16 := kraftBelow_mono lengths (by omega)
      _ ≤ 2 ^ c.len * 2 ^ (15 - c.len) := by rw [← kraftSum_eq, ← hscale]; exact hkraft
  exact Nat.le_of_mul_le_mul_right hle (Nat.two_pow_pos _)

/-- A longer code's leading bits lie above every shorter code. -/
theorem code_lt_div_of_len_lt (h : buildCodes lengths = .ok tab) (hc : c ∈ tab.codes) (hd : d ∈ tab.codes)
    (hlt : c.len < d.len) : c.val < d.val / 2 ^ (d.len - c.len) := by
  obtain ⟨-, -, -, -, -, hend⟩ := code_interval h hc
  obtain ⟨-, hlen, -, -, hstart, -⟩ := code_interval h hd
  rw [← Nat.succ_le_iff, Nat.le_div_iff_mul_le (Nat.two_pow_pos _)]
  refine Nat.le_of_mul_le_mul_right ?_ (Nat.two_pow_pos (15 - d.len))
  calc (c.val + 1) * 2 ^ (d.len - c.len) * 2 ^ (15 - d.len) = (c.val + 1) * 2 ^ (15 - c.len) := by
        rw [Nat.mul_assoc, ← Nat.pow_add]; congr 2; omega
    _ ≤ kraftBelow lengths (c.len + 1) := hend
    _ ≤ kraftBelow lengths d.len := kraftBelow_mono lengths hlt
    _ ≤ d.val * 2 ^ (15 - d.len) := hstart

theorem code_eq_of_len_val (h : buildCodes lengths = .ok tab) (hc : c ∈ tab.codes) (hd : d ∈ tab.codes)
    (hlen : c.len = d.len) (hval : c.val = d.val) : c = d := by
  obtain ⟨-, -, hcsym, hcval, -⟩ := code_interval h hc
  obtain ⟨-, -, hdsym, hdval, -⟩ := code_interval h hd
  rw [← hlen] at hdsym hdval
  have hsym : c.sym = d.sym := by
    rcases Nat.lt_trichotomy c.sym d.sym with hlt | heq | hgt
    · have := take_countP_strict hlt hcsym
      omega
    · exact heq
    · have := take_countP_strict hgt hdsym
      omega
  cases c
  cases d
  simp_all

theorem codes_prefix_free (h : buildCodes lengths = .ok tab) (hc : c ∈ tab.codes) (hd : d ∈ tab.codes)
    (hp : codeBits c.val c.len <+: codeBits d.val d.len) : c = d := by
  obtain ⟨hle, hlead⟩ := codeBits_prefix hp
  have hval := hlead (code_val_lt h hc) (code_val_lt h hd)
  rcases Nat.eq_or_lt_of_le hle with heq | hlt
  · refine code_eq_of_len_val h hc hd heq ?_
    rw [← hval, heq, Nat.sub_self, Nat.pow_zero, Nat.div_one]
  · exact absurd hval (Nat.ne_of_gt (code_lt_div_of_len_lt h hc hd hlt))

/-- Settles O50: the codes of a table lie in disjoint intervals of 15-bit codes. -/
theorem builtCodesArePrefixFree : Obligations.BuiltCodesArePrefixFree :=
  fun _ _ h => ⟨fun _ hc => code_val_lt h hc, fun _ hc _ hd => codes_prefix_free h hc hd⟩

/-! ## A candidate of the resolver as a string of bits -/

@[simp] theorem codeBits_length (v n : Nat) : (codeBits v n).length = n := by
  induction n with
  | zero => rfl
  | succ n ih => rw [codeBits, List.length_cons, ih]

/-- The candidate after one more bit (42_symbol_resolver R211). -/
theorem codeBits_concat (c L : Nat) (b : Bool) : codeBits (c * 2 + b.toNat) (L + 1) = codeBits c L ++ [b] := by
  induction L with
  | zero => cases b <;> simp [codeBits, Nat.testBit_zero, Nat.add_mod]
  | succ L ih =>
    have htop : (c * 2 + b.toNat).testBit (L + 1) = c.testBit L := by
      rw [Nat.testBit_succ]
      congr 1
      cases b <;> simp [Nat.mul_add_div, Nat.mul_comm c 2]
    rw [codeBits, ih, htop, codeBits, List.cons_append]

theorem candidate_lt {c L : Nat} (h : c < 2 ^ L) (b : Bool) : c * 2 + b.toNat < 2 ^ (L + 1) := by
  rw [Nat.pow_succ]
  cases b <;> simp <;> omega

theorem findCode_codeBits {codes : List Code} {L v : Nat} (h : findCode codes L v = some e) :
    e ∈ codes ∧ codeBits e.val e.len = codeBits v L := by
  obtain ⟨hmem, rfl, rfl⟩ := findCode_mem h
  exact ⟨hmem, rfl⟩

/-- A candidate that is a code is found. -/
theorem findCode_of_codeBits (h : buildCodes lengths = .ok tab) (he : e ∈ tab.codes) {L v : Nat} (hv : v < 2 ^ L)
    (hbits : codeBits e.val e.len = codeBits v L) : findCode tab.codes L v = some e := by
  have hlen : e.len = L := by simpa using congrArg List.length hbits
  subst hlen
  have hval : v = e.val := by
    obtain ⟨-, hlead⟩ := codeBits_prefix (hbits ▸ List.prefix_rfl : codeBits e.val e.len <+: codeBits v e.len)
    simpa using hlead (code_val_lt h he) hv
  subst hval
  cases hf : findCode tab.codes e.len e.val with
  | none =>
    have := List.find?_eq_none.1 hf e he
    simp at this
  | some e' =>
    obtain ⟨hmem, hlen, hval⟩ := findCode_mem hf
    rw [code_eq_of_len_val h hmem he hlen hval]

/-! ## The resolver on a string of bits -/

/-- After the bits of the candidate, the bits `more` that are left of a code lead to its symbol. -/
theorem decodeBits_of_code (h : buildCodes lengths = .ok tab) (he : e ∈ tab.codes) {more : List Bool} (hne : more ≠ [])
    (rest : List Bool) {n L c : Nat} (hc : c < 2 ^ L) (hn : more.length ≤ n)
    (hbits : codeBits e.val e.len = codeBits c L ++ more) :
    decodeBits tab.codes n L c (more ++ rest) = .good e.sym rest := by
  induction more generalizing n L c with
  | nil => exact absurd rfl hne
  | cons b more ih =>
    obtain ⟨n, rfl⟩ : ∃ m, n = m + 1 := ⟨n - 1, by simp at hn; omega⟩
    rw [List.append_cons, ← codeBits_concat] at hbits
    rw [List.cons_append, decodeBits]
    cases hf : findCode tab.codes (L + 1) (c * 2 + b.toNat) with
    | some e' =>
      obtain ⟨hmem, hbits'⟩ := findCode_codeBits hf
      have heq : e' = e := codes_prefix_free h hmem he (by rw [hbits', hbits]; exact List.prefix_append ..)
      subst heq
      have hmore : more = [] := by
        rw [hbits'] at hbits
        exact List.self_eq_append_right.1 hbits
      subst hmore
      rfl
    | none =>
      have hmore : more ≠ [] := by
        rintro rfl
        rw [List.append_nil] at hbits
        rw [findCode_of_codeBits h he (candidate_lt hc b) hbits] at hf
        cases hf
      exact ih hmore (candidate_lt hc b) (by simpa using hn) hbits

/-- Bits that begin with no code: all that are tried are consumed, and where they run out the stream has ended. -/
theorem decodeBits_of_no_code {codes : List Code} {bits : List Bool} {n L c : Nat}
    (hno : ∀ e ∈ codes, ¬ codeBits e.val e.len <+: codeBits c L ++ bits.take n) :
    decodeBits codes n L c bits
      = if n ≤ bits.length then .bad .malformedHuffmanStream (bits.drop n) else .bad .unexpectedEndOfStream [] := by
  induction n generalizing L c bits with
  | zero => rfl
  | succ n ih =>
    cases bits with
    | nil => rfl
    | cons b bits =>
      rw [List.take_succ_cons, List.append_cons, ← codeBits_concat] at hno
      have hnone : findCode codes (L + 1) (c * 2 + b.toNat) = none := by
        refine Option.eq_none_iff_forall_ne_some.2 fun e hf => ?_
        obtain ⟨hmem, hbits⟩ := findCode_codeBits hf
        exact hno e hmem (hbits ▸ List.prefix_append ..)
      rw [decodeBits, hnone]
      simpa using ih hno

theorem code_len_le_maxLen (h : buildCodes lengths = .ok tab) (hc : c ∈ tab.codes) : c.len ≤ tab.maxLen := by
  obtain ⟨-, -, hsym, -⟩ := code_interval h hc
  obtain ⟨-, -, rfl⟩ := buildCodes_ok h
  exact (maxLength_isMax lengths).2 _ (List.mem_cons_of_mem 0 (List.mem_of_getElem? hsym))

theorem decode_of_code (h : buildCodes lengths = .ok tab) (hc : c ∈ tab.codes) (rest : List Bool) :
    tab.decode (codeBits c.val c.len ++ rest) = .good c.sym rest := by
  obtain ⟨hpos, -⟩ := code_interval h hc
  refine decodeBits_of_code h hc (fun hnil => ?_) rest Nat.one_pos ?_ rfl
  · have := congrArg List.length hnil
    simp at this
    omega
  · simpa using code_len_le_maxLen h hc

/-- An empty table tries no bit (42_symbol_resolver R213). -/
theorem maxLen_of_no_codes (h : buildCodes lengths = .ok tab) (hempty : tab.codes = []) : tab.maxLen = 0 := by
  obtain ⟨-, -, hcontents⟩ := buildCodesAcceptance lengths
  obtain ⟨hsyms, -, -, hmax⟩ := hcontents tab h
  rw [hempty, List.map_nil, eq_comm, List.map_eq_nil_iff, List.filter_eq_nil_iff] at hsyms
  rcases hmax with hzero | hmem
  · exact hzero
  · obtain ⟨k, hk⟩ := List.getElem?_of_mem hmem
    simpa using hsyms (tab.maxLen, k) (List.mk_mem_zipIdx_iff_getElem?.2 hk)

/-! ## HUF_BUILD and HUF_DECODE -/

theorem exec_hufBuild (lengths : List Nat) (s : State) :
    exec (.hufBuild lengths) s = returning (withTable lengths s fun t => .ok t s) Ret.table := rfl

theorem exec_hufDecode (h : buildCodes lengths = .ok tab) (s : State) :
    exec (.hufDecode lengths) s = returning (resolve tab s) Ret.symbol :=
  congrArg (returning · Ret.symbol) (withTable_ok h)

theorem exec_hufDecode_good {s : State} (h : buildCodes lengths = .ok tab) {sym : Nat} {rest : List Bool}
    (hd : tab.decode s.upcoming = .good sym rest) :
    ∃ t, exec (.hufDecode lengths) s = .next t ∧ t = { s with bc := t.bc, ret := .symbol sym } ∧ t.upcoming = rest := by
  obtain ⟨u, hr, hrest, hreads⟩ := resolve_upcoming hd
  refine ⟨u.setRet (.symbol sym), ?_, ?_, hrest⟩
  · rw [exec_hufDecode h, hr]
    rfl
  · rw [hreads.same]
    rfl

theorem exec_hufDecode_bad {s : State} (h : buildCodes lengths = .ok tab) {err : StreamError} {rest : List Bool}
    (hd : tab.decode s.upcoming = .bad err rest) :
    ∃ t, exec (.hufDecode lengths) s = .next t ∧ t.upcoming = rest ∧ t = failedWith err { s with bc := t.bc } := by
  have hfollows := follows_resolve tab s
  rw [hd] at hfollows
  obtain ⟨u, hr, hrest, hreads⟩ := hfollows
  refine ⟨u.latch err, ?_, hrest, ?_⟩
  · rw [exec_hufDecode h, hr]
    rfl
  · rw [hreads.same]
    rfl

/-- Settles O52: the candidate stands for a string of bits, and no code begins another. -/
theorem resolverDecodesEveryCode : Obligations.ResolverDecodesEveryCode := by
  intro s lengths
  refine ⟨fun tab h => ?build, fun e h => ?buildFails, fun tab c rest h hc hs => ?code, fun tab h hempty => ?empty,
    fun tab bits rest h hs hlen hno => ?noCode, fun tab h hlen hno => ?sourceEnds⟩
  case build =>
    rw [exec_hufBuild, withTable_ok h]
    rfl
  case buildFails =>
    rw [exec_hufBuild, withTable_error h]
    rfl
  case code => exact exec_hufDecode_good h (hs ▸ decode_of_code h hc rest)
  case empty =>
    rw [exec_hufDecode h, resolve, maxLen_of_no_codes h hempty]
    rfl
  case noCode =>
    refine exec_hufDecode_bad h ?_
    have htake : (bits ++ rest).take tab.maxLen = bits := hlen ▸ List.take_left
    rw [CodeTable.decode, decodeBits_of_no_code (by simpa [codeBits, hs, htake] using hno), hs, if_pos (by simp [hlen]),
      ← hlen, List.drop_left]
  case sourceEnds =>
    refine exec_hufDecode_bad h ?_
    rw [CodeTable.decode, decodeBits_of_no_code (by simpa [codeBits, List.take_of_length_le (Nat.le_of_lt hlen)] using hno),
      if_neg (by omega)]

end Sys2Proof.Machine
end


section
/-! The symbols and the dynamic header against the rules read off a list of bits (44_inflate_blocks R280 to R289, 45_inflate_symbols R304 to R306).
`Scans` says that an operation ends as a scan of the upcoming bits does, with the bits the scan leaves still to come; the scan's value and
the state left are related by `good`, and `bad` holds of a state in which the operation raises. -/

namespace Sys2Proof.Machine

open Sys2Proof

variable {α β : Type} {s t : State}

/-! ## Operations that end as a scan does -/

def Scans (good : α → β → State → Prop) (bad : State → Prop) (r : Res α) (p : Scan β) : Prop :=
  match p with
  | .good b rest => ∃ a t, r = .ok a t ∧ t.upcoming = rest ∧ good a b t
  | .bad e rest => ∃ t, r = .raised e t ∧ t.upcoming = rest ∧ bad t

theorem Scans.mono {good good' : α → β → State → Prop} {bad bad' : State → Prop} {r : Res α} {p : Scan β} (h : Scans good bad r p)
    (hgood : ∀ a b t, good a b t → good' a b t) (hbad : ∀ t, bad t → bad' t) : Scans good' bad' r p := by
  cases p with
  | good b rest =>
    obtain ⟨a, t, hr, hrest, ht⟩ := h
    exact ⟨a, t, hr, hrest, hgood a b t ht⟩
  | bad e rest =>
    obtain ⟨t, hr, hrest, ht⟩ := h
    exact ⟨t, hr, hrest, hbad t ht⟩

theorem Scans.bind {α' β' : Type} {good : α → β → State → Prop} {good' : α' → β' → State → Prop} {bad : State → Prop}
    {r : Res α} {p : Scan β} {k : α → State → Res α'} {q : β → List Bool → Scan β'} (h : Scans good bad r p)
    (hk : ∀ a b t, good a b t → Scans good' bad (k a t) (q b t.upcoming)) : Scans good' bad (r.bind k) (p.bind q) := by
  cases p with
  | good b rest =>
    obtain ⟨a, t, rfl, rfl, ht⟩ := h
    exact hk a b t ht
  | bad e rest =>
    obtain ⟨t, rfl, hrest, ht⟩ := h
    exact ⟨t, rfl, hrest, ht⟩

/-- A pure read, after which the operation goes on: only the cursor has moved. -/
theorem Follows.scans {r : Res α} {p : Scan α} (h : Follows s r p) :
    Scans (fun a b t => a = b ∧ t = s.atCursor t.bc) (fun t => t = s.atCursor t.bc) r p := by
  cases p with
  | good a rest =>
    obtain ⟨t, hr, hrest, ht⟩ := h
    exact ⟨a, t, hr, hrest, rfl, ht.same⟩
  | bad e rest =>
    obtain ⟨t, hr, hrest, ht⟩ := h
    exact ⟨t, hr, hrest, ht.same⟩

theorem scans_withTable {good : α → β → State → Prop} {bad : State → Prop} {lengths : List Nat} {k : CodeTable → Res α}
    {q : CodeTable → List Bool → Scan β} (hbad : bad s)
    (hk : ∀ tab, buildCodes lengths = .ok tab → Scans good bad (k tab) (q tab s.upcoming)) :
    Scans good bad (withTable lengths s k) ((buildScan lengths s.upcoming).bind q) := by
  cases h : buildCodes lengths with
  | ok tab =>
    rw [withTable_ok h, buildScan, h]
    exact hk tab h
  | error e =>
    rw [withTable_error h, buildScan, h]
    exact ⟨s, rfl, rfl, hbad⟩

theorem takeBits_append (e rest : List Bool) : takeBits e.length (e ++ rest) = .good (bitsValue e) rest := by
  simp [takeBits]

theorem takeBits_short {n : Nat} {bits : List Bool} (h : bits.length < n) : takeBits n bits = .bad .unexpectedEndOfStream [] :=
  if_neg (by omega)

/-- What is known of every value and state an operation answers can be added to what the scan says. -/
theorem Scans.and_sat {good : α → β → State → Prop} {bad : State → Prop} {r : Res α} {p : Scan β} {stop : Prop}
    {Q : α → State → Prop} {E : StreamError → State → Prop} (h : Scans good bad r p) (hsat : r.Sat stop Q E) :
    Scans (fun a b t => good a b t ∧ Q a t) bad r p := by
  cases p with
  | good b rest =>
    obtain ⟨a, t, rfl, hrest, ht⟩ := h
    exact ⟨a, t, rfl, hrest, ht, hsat⟩
  | bad e rest => exact h

theorem readBits_scans {n : Nat} (hn : n ≤ 24) (s : State) :
    Scans (fun a b t => a = b ∧ b < 2 ^ n ∧ t = s.atCursor t.bc) (fun t => t = s.atCursor t.bc) (readBits n s)
      (takeBits n s.upcoming) := by
  refine ((follows_readBits hn s).scans.and_sat (readBits_reads hn s)).mono ?_ fun _ ht => ht
  rintro a b t ⟨⟨rfl, ht⟩, -, -, hlt⟩
  exact ⟨rfl, hlt, ht⟩

theorem resolve_scans (tab : CodeTable) (s : State) :
    Scans (fun a b t => a = b ∧ (∃ e ∈ tab.codes, e.sym = b) ∧ t = s.atCursor t.bc) (fun t => t = s.atCursor t.bc) (resolve tab s)
      (tab.decode s.upcoming) := by
  refine ((follows_resolve tab s).scans.and_sat (resolve_reads tab s)).mono ?_ fun _ ht => ht
  rintro a b t ⟨⟨rfl, ht⟩, hsym, -, -⟩
  exact ⟨rfl, hsym, ht⟩

/-- The operation raises at the end of the source, with every bit consumed and only the cursor moved. -/
def EndsSource (s : State) (r : Res α) : Prop :=
  ∃ u, r = .raised .unexpectedEndOfStream u ∧ u.upcoming = [] ∧ u = s.atCursor u.bc

/-- A source that ends before the last bit of some fields. -/
theorem EndsSource.readBits_bind {n m : Nat} {k : Nat → State → Res α} (hn : n ≤ 24) (h : s.upcoming.length < n + m)
    (hk : ∀ v t, t.upcoming.length < m → EndsSource t (k v t)) : EndsSource s ((readBits n s).bind k) := by
  have hscan := readBits_scans hn s
  by_cases hshort : s.upcoming.length < n
  · rw [takeBits_short hshort] at hscan
    obtain ⟨u, hr, hu⟩ := hscan
    exact ⟨u, by rw [hr]; rfl, hu⟩
  · rw [takeBits, if_pos (Nat.le_of_not_lt hshort)] at hscan
    obtain ⟨v, t, hr, hrest, -, -, ht⟩ := hscan
    obtain ⟨u, hku, hend, hu⟩ := hk v t (by rw [hrest, List.length_drop]; omega)
    exact ⟨u, by rw [hr]; exact hku, hend, by rw [hu, ht]⟩

/-! ## Code-length symbols (44_inflate_blocks R285 to R288) -/

/-- `n` extra bits, then a repeat of `l`: CL_REP17 and CL_REP18, and CL_REP16 after a length `l`. -/
def repeatSymbol (n base l : Nat) (s : State) : Res Unit :=
  (readBits n s).bind fun e s1 => appendRepeat l (base + e) s1

/-- The repeat a scan reads. -/
def repeatScan (total n base l : Nat) (seq : List Nat) (bits : List Bool) : Scan (List Nat) :=
  (takeBits n bits).bind fun e rest => repeatOf total l (base + e) seq rest

/-- Only the cursor and the sequence differ, and the sequence is `seq`. -/
abbrev SeqIs (s : State) (seq : List Nat) (t : State) : Prop := t = { s with bc := t.bc, scr := { s.scr with seq := seq } }

/-- A symbol's sequence is longer than the one before it. -/
abbrev SeqGrows (s : State) (seq : List Nat) (t : State) : Prop := SeqIs s seq t ∧ s.scr.seq.length < seq.length

theorem elemClRep16_of_last {l : Nat} (h : s.scr.seq.getLast? = some l) : elemClRep16 s = repeatSymbol 2 3 l s := by
  rw [elemClRep16, h]
  rfl

theorem elemClRep16_of_empty (h : s.scr.seq = []) : elemClRep16 s = .raised .malformedHuffmanStream s := by
  rw [elemClRep16, h]
  rfl

theorem appendRepeat_scans (l : Nat) {r : Nat} (hr : 0 < r) (s : State) :
    Scans (fun _ => SeqGrows s) (fun t => t = s) (appendRepeat l r s)
      (repeatOf (s.scr.nLit + s.scr.nDist) l r s.scr.seq s.upcoming) := by
  unfold appendRepeat repeatOf
  by_cases h : s.scr.seq.length + r ≤ s.scr.nLit + s.scr.nDist
  · rw [if_pos h, if_neg (Nat.not_lt.2 h)]
    exact ⟨(), _, rfl, rfl, rfl, by simpa using hr⟩
  · rw [if_neg h, if_pos (Nat.lt_of_not_le h)]
    exact ⟨s, rfl, rfl, rfl⟩

theorem repeatSymbol_scans {n base : Nat} (hn : n ≤ 24) (hbase : 0 < base) (l : Nat) (s : State) :
    Scans (fun _ => SeqGrows s) (fun t => t = s.atCursor t.bc) (repeatSymbol n base l s)
      (repeatScan (s.scr.nLit + s.scr.nDist) n base l s.scr.seq s.upcoming) := by
  refine (readBits_scans hn s).bind ?_
  rintro e _ t ⟨rfl, -, ht⟩
  rw [ht]
  exact (appendRepeat_scans l (Nat.add_pos_left hbase e) _).mono (fun _ _ _ hu => hu) fun u hu => hu ▸ rfl

theorem clElem_scans {sym : Nat} (hsym : sym ≤ 18) (s : State) :
    Scans (fun _ => SeqGrows s) (fun t => t = s.atCursor t.bc) (clElem sym s)
      (extendSeq (s.scr.nLit + s.scr.nDist) sym s.scr.seq s.upcoming) := by
  unfold clElem extendSeq
  by_cases hlit : sym < 16
  · rw [if_pos hlit, if_pos hlit, elemClLen, BitVec.toNat_ofNat, Nat.mod_eq_of_lt hlit]
    exact ⟨(), _, rfl, rfl, rfl, by simp⟩
  rw [if_neg hlit, if_neg hlit]
  by_cases h16 : sym = 16
  · rw [if_pos h16, if_pos h16]
    cases hl : s.scr.seq.getLast? with
    | none => exact ⟨s, elemClRep16_of_empty (List.getLast?_eq_none_iff.1 hl), rfl, rfl⟩
    | some l =>
      rw [elemClRep16_of_last hl]
      exact repeatSymbol_scans (by decide) (by decide) l s
  rw [if_neg h16, if_neg h16]
  by_cases h17 : sym = 17
  · rw [if_pos h17, if_pos h17]
    exact repeatSymbol_scans (by decide) (by decide) 0 s
  · rw [if_neg h17, if_neg h17, if_pos (by omega)]
    exact repeatSymbol_scans (by decide) (by decide) 0 s

/-- A scan that has ended with a value, and the element that ends so. -/
theorem Scans.finish_good {good : Unit → β → State → Prop} {bad : State → Prop} {r : Res Unit} {p : Scan β} {b : β} {rest : List Bool}
    (h : Scans good bad r p) (hp : p = .good b rest) : ∃ t, r.finish = .next t ∧ t.upcoming = rest ∧ good () b t := by
  subst hp
  obtain ⟨_, t, rfl, hrest, ht⟩ := h
  exact ⟨t, rfl, hrest, ht⟩

theorem Scans.finish_bad {good : Unit → β → State → Prop} {bad : State → Prop} {r : Res Unit} {p : Scan β} {e : StreamError}
    {rest : List Bool} (h : Scans good bad r p) (hp : p = .bad e rest) : ∃ u, r.finish = .next (failedWith e u) ∧ u.upcoming = rest ∧ bad u := by
  subst hp
  obtain ⟨u, rfl, hrest, hu⟩ := h
  exact ⟨u, rfl, hrest, hu⟩

theorem failedWith_atCursor {e : StreamError} {u : State} (h : u = s.atCursor u.bc) :
    failedWith e u = failedWith e { s with bc := (failedWith e u).bc } := by
  rw [h]
  rfl

theorem exec_repeat {i : Instr} {l base n : Nat}
    (h : (i = .clRep16 ∧ s.scr.seq.getLast? = some l ∧ base = 3 ∧ n = 2) ∨ (i = .clRep17 ∧ l = 0 ∧ base = 3 ∧ n = 3)
      ∨ (i = .clRep18 ∧ l = 0 ∧ base = 11 ∧ n = 7)) :
    exec i s = (repeatSymbol n base l s).finish ∧ n ≤ 24 ∧ 0 < base := by
  rcases h with ⟨rfl, hl, rfl, rfl⟩ | ⟨rfl, rfl, rfl, rfl⟩ | ⟨rfl, rfl, rfl, rfl⟩
  · exact ⟨congrArg Res.finish (elemClRep16_of_last hl), by decide, by decide⟩
  · exact ⟨rfl, by decide, by decide⟩
  · exact ⟨rfl, by decide, by decide⟩

/-- Settles O41: the three repeats are one operation. -/
theorem codeLengthSymbols : Obligations.CodeLengthSymbols := by
  intro s
  refine ⟨fun l => rfl, fun h => ?empty, fun i l base n e rest hi hs hn => ?repetition, fun i n hi hlen => ?ends⟩
  case empty => exact congrArg Res.finish (elemClRep16_of_empty h)
  case repetition =>
    obtain ⟨hexec, hle, hbase⟩ := exec_repeat hi
    have hscan := repeatSymbol_scans hle hbase l s
    rw [hs, repeatScan, ← hn, takeBits_append, Scan.bind, repeatOf] at hscan
    rw [hexec, ← hn]
    by_cases hfit : s.scr.seq.length + (base + bitsValue e) ≤ s.scr.nLit + s.scr.nDist
    · obtain ⟨t, hr, hrest, ht, -⟩ := hscan.finish_good (if_pos hfit)
      exact ⟨t, hr, hrest, fun _ => ht, fun hlt => absurd hfit (Nat.not_le.2 hlt)⟩
    · obtain ⟨u, hr, hrest, hu⟩ := hscan.finish_bad (if_neg hfit)
      exact ⟨_, hr, hrest, fun hle => absurd hle hfit, fun _ => failedWith_atCursor hu⟩
  case ends =>
    obtain ⟨l, base, hi⟩ : ∃ l base, (i = .clRep16 ∧ s.scr.seq.getLast? = some l ∧ base = 3 ∧ n = 2)
        ∨ (i = .clRep17 ∧ l = 0 ∧ base = 3 ∧ n = 3) ∨ (i = .clRep18 ∧ l = 0 ∧ base = 11 ∧ n = 7) := by
      rcases hi with ⟨hi, hne, hn⟩ | ⟨hi, hn⟩ | ⟨hi, hn⟩
      · exact ⟨_, 3, .inl ⟨hi, List.getLast?_eq_some_getLast hne, rfl, hn⟩⟩
      · exact ⟨0, 3, .inr (.inl ⟨hi, rfl, rfl, hn⟩)⟩
      · exact ⟨0, 11, .inr (.inr ⟨hi, rfl, rfl, hn⟩)⟩
    obtain ⟨hexec, hle, hbase⟩ := exec_repeat hi
    have hscan := repeatSymbol_scans hle hbase l s
    rw [repeatScan, takeBits_short hlen] at hscan
    obtain ⟨u, hr, hrest, hu⟩ := hscan.finish_bad rfl
    exact ⟨_, hexec.trans hr, hrest, failedWith_atCursor hu⟩

/-! ## Distance symbols (45_inflate_symbols R306, R371) -/

theorem Scans.map {β' : Type} {good : α → β → State → Prop} {good' : α → β' → State → Prop} {bad : State → Prop}
    {r : Res α} {p : Scan β} (h : Scans good bad r p) (f : β → β') (hgood : ∀ a b t, good a b t → good' a (f b) t) :
    Scans good' bad r (p.bind fun b rest => .good (f b) rest) := by
  cases p with
  | good b rest =>
    obtain ⟨a, t, hr, hrest, ht⟩ := h
    exact ⟨a, t, hr, hrest, hgood a b t ht⟩
  | bad e rest => exact h

/-- Only the cursor and the pending copy differ: the length is the scratch's, the distance `dist`. -/
abbrev DistanceIs (s : State) (dist : Nat) (t : State) : Prop :=
  t = { s with bc := t.bc, pendLen := s.scr.len, pendDist := dist } ∧ 1 ≤ dist ∧ dist ≤ 32768

theorem distSymbol_scans {base ext : Nat} (hbase : 1 ≤ base) (hbound : base + 2 ^ ext ≤ 32769) (hext : ext ≤ 24) (s : State) :
    Scans (fun _ => DistanceIs s) (fun t => t = s.atCursor t.bc) (distSymbol base ext s)
      ((takeBits ext s.upcoming).bind fun e rest => .good (base + e) rest) := by
  refine (readBits_scans hext s).bind ?_
  rintro e _ t ⟨rfl, hlt, ht⟩
  rw [ht]
  exact ⟨(), _, rfl, rfl, rfl, by omega, by omega⟩

theorem distEntries_bounds {base ext : Nat} (h : (base, ext) ∈ distEntries) : 1 ≤ base ∧ base + 2 ^ ext ≤ 32769 ∧ ext ≤ 24 := by
  have hall : ∀ e ∈ distEntries, 1 ≤ e.1 ∧ e.1 + 2 ^ e.2 ≤ 32769 ∧ e.2 ≤ 24 := by decide
  exact hall _ h

theorem distElem_of_entry {ds base ext : Nat} (h : distEntries[ds]? = some (base, ext)) (s : State) :
    distElem ds s = distSymbol base ext s := by
  have hd : distElems[ds]? = some (distSymbol base ext) := by rw [distElems_eq_map, List.getElem?_map, h]; rfl
  rw [distElem, hd]

theorem distElem_of_no_entry {ds : Nat} (h : distEntries[ds]? = none) (s : State) :
    distElem ds s = .raised (distInvalidError s.distMode) s := by
  have hd : distElems[ds]? = none := by rw [distElems_eq_map, List.getElem?_map, h]; rfl
  rw [distElem, hd]
  rfl

theorem distElem_scans (ds : Nat) (s : State) :
    Scans (fun _ => DistanceIs s) (fun t => t = s.atCursor t.bc) (distElem ds s) (distanceOf s.distMode ds s.upcoming) := by
  unfold distanceOf
  cases h : distEntries[ds]? with
  | some entry =>
    obtain ⟨hbase, hbound, hext⟩ := distEntries_bounds (List.mem_of_getElem? h)
    rw [distElem_of_entry h]
    exact distSymbol_scans hbase hbound hext s
  | none =>
    rw [distElem_of_no_entry h]
    exact ⟨s, by cases s.distMode <;> rfl, rfl, rfl⟩

/-- Settles O44: the extra bits are one field of the stream. -/
theorem distanceSymbols : Obligations.DistanceSymbols := by
  intro s i base ext hi
  obtain ⟨hbase, hbound, hext⟩ := distTable_bounds hi
  have hscan := distSymbol_scans hbase hbound hext s
  refine ⟨fun e rest hs hlen => ?reads, fun hlen => ?ends⟩
  case reads =>
    rw [hs, ← hlen, takeBits_append] at hscan
    obtain ⟨t, hr, hrest, ht, hlow, hhigh⟩ := hscan.finish_good rfl
    refine ⟨t, ?_, hrest, ht, ?_, ?_⟩
    · rw [exec_distTable hi, ← hlen, hr]
    · rw [ht]
      exact hlow
    · rw [ht]
      exact hhigh
  case ends =>
    rw [takeBits_short hlen] at hscan
    obtain ⟨u, hr, hrest, hu⟩ := hscan.finish_bad rfl
    exact ⟨_, (exec_distTable hi s).trans hr, hrest, failedWith_atCursor hu⟩

/-! ## Length symbols (45_inflate_symbols R304, R305) -/

/-- Only the cursor, the scratch length and the pending copy differ, and the pending copy is `pair`. -/
abbrev PairIs (s : State) (pair : Nat × Nat) (t : State) : Prop :=
  t = { s with bc := t.bc, scr := { s.scr with len := pair.1 }, pendLen := pair.1, pendDist := pair.2 }
    ∧ 3 ≤ pair.1 ∧ pair.1 ≤ 258 ∧ 1 ≤ pair.2 ∧ pair.2 ≤ 32768

/-- Only the cursor and the scratch length differ. -/
abbrev LenOnly (s t : State) : Prop := t = { s with bc := t.bc, scr := { s.scr with len := t.scr.len } }

theorem lenSymbol_scans {base ext : Nat} {tab : CodeTable} (hbase : 3 ≤ base) (hbound : base + 2 ^ ext ≤ 259) (hext : ext ≤ 24)
    (htab : buildCodes s.dLengths = .ok tab) :
    Scans (fun _ => PairIs s) (LenOnly s) (lenSymbol base ext s) (pairOf s.distMode tab base ext s.upcoming) := by
  refine ((readBits_scans hext s).mono (fun _ _ _ h => h) fun t ht => ?_).bind ?_
  · exact ht ▸ rfl
  rintro e _ t ⟨rfl, hlt, ht⟩
  have hdecode : decodeDist { t with scr := { t.scr with len := base + e } } = resolve tab { t with scr := { t.scr with len := base + e } } :=
    withTable_ok (by rw [ht]; exact htab)
  rw [hdecode, ht]
  refine ((follows_resolve tab _).scans.mono (fun _ _ _ h => h) fun u hu => ?_).bind ?_
  · exact hu ▸ rfl
  rintro ds _ u ⟨rfl, hu⟩
  rw [hu]
  refine ((distElem_scans ds _).mono (fun _ _ _ h => h) fun v hv => ?_).map _ ?_
  · exact hv ▸ rfl
  rintro _ d v ⟨hv, hlow, hhigh⟩
  exact ⟨hv ▸ rfl, by simp only; omega, by simp only; omega, hlow, hhigh⟩

/-- Settles O43: the extra bits, the distance code and its extra bits are three reads in a row. -/
theorem lengthSymbols : Obligations.LengthSymbols := by
  intro s i base ext tab hi htab
  obtain ⟨hbase, hbound, hext⟩ := lenTable_bounds hi
  have hscan := lenSymbol_scans hbase hbound hext htab
  rw [exec_lenTable hi]
  cases hp : pairOf s.distMode tab base ext s.upcoming with
  | good pair rest => exact hscan.finish_good hp
  | bad e rest =>
    obtain ⟨u, hr, hrest, hu⟩ := hscan.finish_bad hp
    refine ⟨_, hr, hrest, ?_⟩
    rw [hu]
    rfl

/-! ## The dynamic header (44_inflate_blocks R280 to R289) -/

/-- Only the cursor and the scratch differ. -/
abbrev ScratchOnly (s t : State) : Prop := t = { s with bc := t.bc, scr := t.scr }

theorem ScratchOnly.trans {u : State} (h : ScratchOnly s t) (hu : ScratchOnly t u) : ScratchOnly s u := by
  rw [hu, h]

theorem readClLens_scans (ks : List Nat) (s : State) :
    Scans (fun _ lens t => ScratchOnly s t ∧ t.scr = { s.scr with clLen := lens } ∧ lens.length = s.scr.clLen.length) (ScratchOnly s)
      (readClLens ks s) (clLensOf ks s.scr.clLen s.upcoming) := by
  induction ks generalizing s with
  | nil => exact ⟨(), s, rfl, rfl, rfl, rfl, rfl⟩
  | cons k ks ih =>
    refine ((readBits_scans (by decide) s).mono (fun _ _ _ h => h) fun t ht => ht ▸ rfl).bind ?_
    rintro v _ t ⟨rfl, -, ht⟩
    rw [ht]
    refine (ih _).mono ?_ fun u hu => hu ▸ rfl
    rintro _ lens u ⟨hu, hscr, hlen⟩
    exact ⟨hu ▸ rfl, hscr, by simpa using hlen⟩

/-- Each symbol adds a length, so the bound on the symbols is not used up, and the sequence ends full. -/
theorem readLengths_scans {lengths : List Nat} {tab : CodeTable} (htab : buildCodes lengths = .ok tab) (hlen : lengths.length = 19) {n : Nat}
    (hpos : 0 < n) (hn : s.scr.nLit + s.scr.nDist < s.scr.seq.length + n) :
    Scans (fun _ seq t => ScratchOnly s t ∧ t.scr = { s.scr with seq := seq } ∧ s.scr.nLit + s.scr.nDist ≤ seq.length) (ScratchOnly s)
      (readLengths tab n s) (lengthsOf tab (s.scr.nLit + s.scr.nDist) n s.scr.seq s.upcoming) := by
  induction n generalizing s with
  | zero => exact absurd hpos (Nat.lt_irrefl 0)
  | succ n ih =>
    rw [readLengths, lengthsOf]
    by_cases hmore : s.scr.seq.length < s.scr.nLit + s.scr.nDist
    · rw [if_pos hmore, if_pos hmore]
      refine ((resolve_scans tab s).mono (fun _ _ _ h => h) fun t ht => ht ▸ rfl).bind ?_
      rintro sym _ t ⟨rfl, ⟨e, he, hsym⟩, ht⟩
      have hle : sym ≤ 18 := by
        have := code_sym_lt htab he
        omega
      rw [ht]
      refine ((clElem_scans hle _).mono (fun _ _ _ h => h) fun u hu => hu ▸ rfl).bind ?_
      rintro _ seq u ⟨hu, hgrow⟩
      rw [hu]
      refine (ih (by omega) (by simp only at hgrow ⊢; omega)).mono ?_ fun v hv => hv ▸ rfl
      rintro _ seq' v ⟨hv, hscr, hfull⟩
      exact ⟨hv ▸ rfl, hscr, hfull⟩
    · rw [if_neg hmore, if_neg hmore]
      exact ⟨(), s, rfl, rfl, rfl, rfl, by omega⟩

/-- The state a good dynamic header leaves: only the cursor and the scratch are not said. -/
abbrev DynamicIs (hlit hdist : Nat) (s : State) (p : List Nat × List Nat) (t : State) : Prop :=
  t = { s with
        bc := t.bc
        scr := t.scr
        llLen := p.1 ++ List.replicate (288 - p.1.length) 0
        llN := hlit + 257
        dLen := p.2 ++ List.replicate (32 - p.2.length) 0
        dN := hdist + 1
        eng := .dynamicHuffman }

theorem installDynamic_scans {ll d : List Nat} {hlit hdist : Nat} (hs : ScratchOnly s t) (hll : ll.length = hlit + 257)
    (hd : d.length = hdist + 1) :
    Scans (fun _ => DynamicIs hlit hdist s) (ScratchOnly s) (installDynamic ll d t)
      ((buildScan ll t.upcoming).bind fun _ rest => (buildScan d rest).bind fun _ rest' => .good (ll, d) rest') := by
  refine scans_withTable hs fun _ _ => scans_withTable hs fun _ _ => ⟨(), _, rfl, rfl, ?_⟩
  show DynamicIs hlit hdist s (ll, d) _
  unfold DynamicIs
  rw [hs, ← hll, ← hd]
  rfl

theorem elemDynHdr_scans (hlit hdist : BitVec 5) (hclen : BitVec 4) (s : State) :
    Scans (fun _ => DynamicIs hlit.toNat hdist.toNat s) (ScratchOnly s) (elemDynHdr hlit hdist hclen s)
      (dynamicOf hlit.toNat hdist.toNat hclen.toNat s.upcoming) := by
  unfold elemDynHdr dynamicOf
  by_cases hcount : 286 < hlit.toNat + 257 ∨ 30 < hdist.toNat + 1
  · rw [if_pos hcount]
    simp only [if_pos hcount]
    exact ⟨s, rfl, rfl, rfl⟩
  · rw [if_neg hcount]
    simp only [if_neg hcount]
    refine ((readClLens_scans _ (s.beginDynamic (hlit.toNat + 257) (hdist.toNat + 1))).mono (fun _ _ _ h => h) fun t ht => ht ▸ rfl).bind ?_
    rintro _ lens t ⟨ht, hscr, hlen⟩
    have hts : ScratchOnly s t := ht ▸ rfl
    rw [show t.scr.clLen = lens by rw [hscr]]
    refine scans_withTable hts fun tab htab => ?_
    have hcounts : t.scr.nLit = hlit.toNat + 257 ∧ t.scr.nDist = hdist.toNat + 1 ∧ t.scr.seq = [] := by
      rw [hscr]
      exact ⟨rfl, rfl, rfl⟩
    obtain ⟨hnLit, hnDist, hseq⟩ := hcounts
    have hscan := readLengths_scans (s := t) (n := hlit.toNat + 257 + (hdist.toNat + 1) + 1) htab (by simpa [Config.clSymbols] using hlen)
      (by omega) (by omega)
    rw [hnLit, hnDist, hseq] at hscan
    refine (hscan.mono (fun _ _ _ h => h) fun u hu => hts.trans hu).bind ?_
    rintro _ seq u ⟨hu, huscr, hfull⟩
    rw [show u.scr.seq = seq by rw [huscr]]
    refine installDynamic_scans (hts.trans hu) ?_ ?_
    · simp only [List.length_take]
      omega
    · simp only [List.length_take, List.length_drop]
      omega

/-- The three count fields, then DYN_HDR; the value keeps the two counts beside the lists. -/
theorem dynamicHeader_scans (s : State) :
    Scans (fun _ v t => DynamicIs v.1 v.2.1 s v.2.2 t) (ScratchOnly s) (dynamicHeader s)
      ((takeBits 5 s.upcoming).bind fun hlit r1 => (takeBits 5 r1).bind fun hdist r2 => (takeBits 4 r2).bind fun hclen r3 =>
        (dynamicOf hlit hdist hclen r3).bind fun p rest => .good (hlit, hdist, p) rest) := by
  have hreads : ∀ {t : State}, t = s.atCursor t.bc → ScratchOnly s t := fun ht => ht ▸ rfl
  have hstep : ∀ {t u : State}, t = s.atCursor t.bc → u = t.atCursor u.bc → u = s.atCursor u.bc := fun ht hu => by rw [hu, ht]
  refine ((readBits_scans (by decide) s).mono (fun _ _ _ h => h) fun _ => hreads).bind ?_
  rintro hlit _ t ⟨rfl, hlit_lt, ht⟩
  refine ((readBits_scans (by decide) t).mono (fun _ _ _ h => h) fun _ hu => hreads (hstep ht hu)).bind ?_
  rintro hdist _ u ⟨rfl, hdist_lt, hu⟩
  refine ((readBits_scans (by decide) u).mono (fun _ _ _ h => h) fun _ hv => hreads (hstep (hstep ht hu) hv)).bind ?_
  rintro hclen _ v ⟨rfl, hclen_lt, hv⟩
  have hv' : v = s.atCursor v.bc := hstep (hstep ht hu) hv
  have hscan := elemDynHdr_scans (BitVec.ofNat 5 hlit) (BitVec.ofNat 5 hdist) (BitVec.ofNat 4 hclen) v
  simp only [BitVec.toNat_ofNat, Nat.mod_eq_of_lt hlit_lt, Nat.mod_eq_of_lt hdist_lt, Nat.mod_eq_of_lt hclen_lt] at hscan
  refine (hscan.mono (fun _ _ _ h => h) fun _ => (hreads hv').trans).map _ ?_
  rintro _ p w hw
  rw [hw, hv']

/-- What the element leaves, for what its bits scan to. -/
theorem Scans.dynamicLeaves {hlit hdist : Nat} {r : Res Unit} {p : Scan (List Nat × List Nat)}
    (h : Scans (fun _ => DynamicIs hlit hdist s) (ScratchOnly s) r p) : ∃ t, r.finish = .next t ∧ DynamicLeaves hlit hdist p s t := by
  cases p with
  | good p rest =>
    obtain ⟨_, t, rfl, hrest, ht⟩ := h
    exact ⟨t, rfl, hrest, ht⟩
  | bad e rest =>
    obtain ⟨u, rfl, hrest, hu⟩ := h
    refine ⟨_, rfl, hrest, ?_⟩
    rw [hu]
    rfl

theorem exec_blockDynamic (f : Bool) (s : State) : exec (.blockDynamic f) s = (dynamicHeader { s with last := f }).finish := rfl

/-- Settles O39: the header is the scan of its rules, read by read. -/
theorem dynamicHeaderInstallsItsLengths : Obligations.DynamicHeaderInstallsItsLengths := by
  intro s
  refine ⟨fun hlit hdist hclen => (elemDynHdr_scans hlit hdist hclen s).dynamicLeaves,
    fun f hlit hdist hclen bits hlit5 hdist5 hclen4 hs => ?fields, fun f hlen => ?ends⟩
  case fields =>
    have hscan := dynamicHeader_scans { s with last := f }
    have hs' : s.upcoming = hlit ++ (hdist ++ (hclen ++ bits)) := by simpa using hs
    rw [show State.upcoming { s with last := f } = _ from hs'] at hscan
    have hfirst := takeBits_append hlit (hdist ++ (hclen ++ bits))
    have hsecond := takeBits_append hdist (hclen ++ bits)
    have hthird := takeBits_append hclen bits
    rw [hlit5] at hfirst
    rw [hdist5] at hsecond
    rw [hclen4] at hthird
    simp only [hfirst, hsecond, hthird, Scan.bind] at hscan
    rw [exec_blockDynamic]
    refine Scans.dynamicLeaves ?_
    cases hp : dynamicOf (bitsValue hlit) (bitsValue hdist) (bitsValue hclen) bits with
    | good p rest =>
      rw [hp] at hscan
      exact hscan
    | bad e rest =>
      rw [hp] at hscan
      exact hscan
  case ends =>
    obtain ⟨u, hr, hend, hu⟩ : EndsSource { s with last := f } (dynamicHeader { s with last := f }) :=
      .readBits_bind (m := 9) (by decide) hlen fun _ _ hlen2 => .readBits_bind (m := 4) (by decide) hlen2
        fun _ _ hlen3 => .readBits_bind (m := 0) (by decide) hlen3 fun _ _ h => absurd h (Nat.not_lt_zero _)
    refine ⟨failedWith .unexpectedEndOfStream u, ?_, hend, ?_⟩
    · rw [exec_blockDynamic, hr]
      rfl
    · rw [hu]
      rfl

end Sys2Proof.Machine
end


section
/-! The host's side of the block (10_state R60 to R73, 47_host_commands R440 to R453): the register window, the configuration, and the commands.
`CommandRuns` says once what each command runs and where; in every other state it answers and changes nothing else. -/

namespace Sys2Proof.Machine

open Sys2Proof

variable {s t : State} {i : Instr}

/-! ## The register window -/

theorem serve_read {off : Nat} (h : off % 4 = 0) (s : State) : serve (.read off 4) s = .next (s.serveRead off) :=
  if_pos ((wordAccess_iff off 4).2 ⟨rfl, h⟩)

theorem serve_write {off : Nat} (h : off % 4 = 0) (h0 : off ≠ 0x00) (v : Word) (s : State) :
    serve (.write off 4 v) s = .next (writeReg off v s) :=
  (if_pos ((wordAccess_iff off 4).2 ⟨rfl, h⟩)).trans (if_neg h0)

theorem readReg_unmapped {off : Nat} (h : off = 0x00 ∨ 0x2C < off) (s : State) : readReg off s = 0 := by
  unfold readReg
  split
  case h_12 => rfl
  all_goals omega

theorem writeReg_ignored {off : Nat} (hconfig : off ≠ 0x10) (hmaxDist : off ≠ 0x14) (v : Word) (s : State) : writeReg off v s = s := by
  unfold writeReg
  split
  · exact absurd rfl hconfig
  · exact absurd rfl hmaxDist
  · rfl

/-- Settles O20: a read is served by `readReg`, a write by `writeReg`. -/
theorem registerWindowAccess : Obligations.RegisterWindowAccess := by
  intro s rest off hoff
  refine ⟨fun hq => ?_, fun h => readReg_unmapped h s, fun v h0 hconfig hmaxDist hq => ?_⟩
  · rw [step_of_queue hq, serve_read hoff]
    rfl
  · rw [step_of_queue hq, serve_write hoff h0, writeReg_ignored hconfig hmaxDist]
    rfl

theorem readReg_resp {r : Resp} (h : s.resp = r) : readReg 0x04 s = r.word := congrArg Resp.word h

theorem data_word (v : Byte) : (Resp.data v).word = 0x200 + v.setWidth 32 := by
  have := v.isLt
  refine BitVec.eq_of_toNat_eq ?_
  simp [Resp.word, Resp.fields]
  omega

/-- Settles O22: each form of the response, packed. -/
theorem responseWord : Obligations.ResponseWord := by
  intro s
  refine ⟨fun h => ?_, fun h => ?_, fun v h => ?_, fun h => ?_, fun e h => ?_, fun h => ?_, fun h => ?_, fun h => ?_⟩
  case refine_3 => rw [readReg_resp h, data_word]
  case refine_5 =>
    rw [readReg_resp h]
    cases e <;> rfl
  all_goals
    rw [readReg_resp h]
    rfl

/-! ## CONFIG and MAXDIST (10_state R64, R67) -/

theorem readReg_config (s : State) : readReg 0x10 s = BitVec.ofNat 32 s.cfgFrame.code := rfl

theorem readReg_maxDist (s : State) : readReg 0x14 s = s.maxDistReg.setWidth 32 := rfl

theorem readReg_config_toNat (s : State) : (readReg 0x10 s).toNat = s.cfgFrame.code := by
  have := frame_code_lt s.cfgFrame
  rw [readReg_config, BitVec.toNat_ofNat]
  omega

theorem readReg_maxDist_toNat (s : State) : (readReg 0x14 s).toNat = s.maxDistReg.toNat := by
  have := s.maxDistReg.isLt
  rw [readReg_maxDist, BitVec.toNat_setWidth]
  omega

theorem frameField_toNat (v : Word) : (v.extractLsb' 0 2).toNat = v.toNat % 4 := by
  rw [toNat_extractLsb'_eq_div_mod, Nat.pow_zero, Nat.div_one]
  rfl

theorem ofCode_of_legal {n : Nat} (h : n % 4 ≠ 3) : ∃ f, Frame.ofCode (n % 4) = some f ∧ f.code = n % 4 := by
  have hn : n % 4 = 0 ∨ n % 4 = 1 ∨ n % 4 = 2 := by omega
  rcases hn with hn | hn | hn <;> rw [hn]
  · exact ⟨.raw, rfl, rfl⟩
  · exact ⟨.zlib, rfl, rfl⟩
  · exact ⟨.gzip, rfl, rfl⟩

theorem writeConfig_of_legal {v : Word} {f : Frame} (hf : Frame.ofCode (v.toNat % 4) = some f) (h : s.configurable = true) :
    writeConfig v s = { s with cfgFrame := f } := by
  rw [writeConfig, frameField_toNat, hf]
  exact if_pos h

theorem writeConfig_of_reserved {v : Word} (h : v.toNat % 4 = 3) : writeConfig v s = s := by
  rw [writeConfig, frameField_toNat, h]
  rfl

theorem writeConfig_locked (v : Word) (h : s.configurable = false) : writeConfig v s = s := writeReg_locked 0x10 v h

theorem writeMaxDist_of_legal {v : Word} (hv : maxDistLegal (v.setWidth 16) = true) (h : s.configurable = true) :
    writeMaxDist v s = { s with maxDistReg := v.setWidth 16 } :=
  if_pos (by rw [hv, h]; rfl)

theorem writeMaxDist_of_illegal {v : Word} (h : maxDistLegal (v.setWidth 16) = false) : writeMaxDist v s = s :=
  if_neg (by rw [h]; exact Bool.false_ne_true)

theorem writeMaxDist_locked (v : Word) (h : s.configurable = false) : writeMaxDist v s = s := writeReg_locked 0x14 v h

theorem maxDistLegal_iff (v : Word) : maxDistLegal (v.setWidth 16) = true ↔ 1 ≤ v.toNat % 65536 ∧ v.toNat % 65536 ≤ 0x8000 := by
  simp only [maxDistLegal, BitVec.toNat_setWidth, Bool.and_eq_true, decide_eq_true_eq]

theorem configurable_eq_false (h : s.phase ≠ .idle ∧ s.phase ≠ .released) : s.configurable = false := by
  rw [← Bool.not_eq_true, configurable_iff]
  exact not_or.2 h

theorem config_written (v : Word) (s : State) :
    writeConfig v s = { s with cfgFrame := (writeConfig v s).cfgFrame } := by
  unfold writeConfig
  split
  · split <;> rfl
  · rfl

theorem maxDist_written (v : Word) (s : State) :
    writeMaxDist v s = { s with maxDistReg := (writeMaxDist v s).maxDistReg } := by
  unfold writeMaxDist
  split <;> rfl

/-- Settles O24: legal writes, reserved values and locked phases apart. -/
theorem configurationWrites : Obligations.ConfigurationWrites := by
  intro s rest v
  refine ⟨fun hq => ?config, fun hq => ?maxDist, fun h => ?raw, fun h => ?zlib, fun h => ?gzip, ?frameRange, ?maxDistRange⟩
  case config =>
    refine ⟨_, (step_of_queue hq).trans (serve_write (by decide) (by decide) v _), config_written v _, fun hphase hv => ?_, fun h => ?_⟩
    · obtain ⟨f, hf, hcode⟩ := ofCode_of_legal hv
      rw [writeReg, writeConfig_of_legal (s := s.withQueue rest) hf (configurable_iff.2 hphase), readReg_config_toNat]
      exact hcode
    · rcases h with h | h
      · rw [writeReg, writeConfig_of_reserved h]
        rfl
      · rw [writeReg, writeConfig_locked (s := s.withQueue rest) v (configurable_eq_false h)]
        rfl
  case maxDist =>
    refine ⟨_, (step_of_queue hq).trans (serve_write (by decide) (by decide) v _), maxDist_written v _, fun hphase hlow hhigh => ?_,
      fun h => ?_⟩
    · rw [writeReg, writeMaxDist_of_legal (s := s.withQueue rest) ((maxDistLegal_iff v).2 ⟨hlow, hhigh⟩) (configurable_iff.2 hphase),
        readReg_maxDist_toNat]
      exact BitVec.toNat_setWidth ..
    · by_cases hlegal : maxDistLegal (v.setWidth 16) = true
      · obtain ⟨hlow, hhigh⟩ := (maxDistLegal_iff v).1 hlegal
        have hphase : s.phase ≠ .idle ∧ s.phase ≠ .released := by
          rcases h with h | h | h
          · omega
          · omega
          · exact h
        rw [writeReg, writeMaxDist_locked (s := s.withQueue rest) v (configurable_eq_false hphase)]
        rfl
      · rw [writeReg, writeMaxDist_of_illegal (by simpa using hlegal)]
        rfl
  case raw => rw [readReg_config, h]; rfl
  case zlib => rw [readReg_config, h]; rfl
  case gzip => rw [readReg_config, h]; rfl
  case frameRange =>
    rw [readReg_config_toNat]
    exact frame_code_lt _
  case maxDistRange =>
    rw [readReg_maxDist_toNat]
    exact s.maxDistReg.isLt

/-! ## What the commands run -/

/-- What a host command answers in `s`: the first rule covers NOP, GET_BIT, every rejection, and READ after the end. -/
inductive CommandRuns (s : State) : Instr → StepResult → Prop
  | answers (i : Instr) (r : Resp) : CommandRuns s i (.next (s.respond r))
  | start (arg : BitVec 24) (h : s.canStart = true) : CommandRuns s (.start arg) (.next (s.openSession.respond .ok))
  | read (arg : BitVec 24) (h : s.phase = .header ∨ s.phase = .body) : CommandRuns s (.read arg) (readBody s).finish
  | enterTrailingBits (arg : BitVec 24) (h : s.canEnterTrailing = true) :
      CommandRuns s (.enterTrailingBits arg) (.next (s.enterTrailingBits.respond .ok))
  | enterTrailingBytes (arg : BitVec 24) (h : s.canEnterTrailing = true) :
      CommandRuns s (.enterTrailingBytes arg) (.next (s.enterTrailingBytes.respond .ok))
  | readTrailBit (arg : BitVec 24) (h : s.inTrailingBits = true) :
      CommandRuns s (.readTrailBit arg) ((readBit s).bind fun b t => .ok () (t.respond (.data (bitByte b)))).finish
  | readTrailByte (arg : BitVec 24) (h : s.inTrailingBytes = true) :
      CommandRuns s (.readTrailByte arg) ((readAlignedByte s).bind fun b t => .ok () (t.respond (.data b))).finish
  | release (arg : BitVec 24) : CommandRuns s (.release arg) (.next (s.releaseWindow.endSession.respond (.data (bitByte s.win.acq))))

theorem commandRuns_ite {c : Bool} {x y : StepResult} (h : c = true → CommandRuns s i x) (hnot : CommandRuns s i y) :
    CommandRuns s i (if c then x else y) := by
  cases c
  · exact hnot
  · exact h rfl

theorem exec_commandRuns (hi : (encode i).fmt = .hostCmd) (s : State) : CommandRuns s i (exec i s) := by
  cases i
  case nop => exact .answers _ _
  case start arg => exact commandRuns_ite (.start arg) (.answers _ _)
  case read arg =>
    by_cases h : s.phase = .header ∨ s.phase = .body
    · rw [exec_read_open arg h]
      exact .read arg h
    · obtain ⟨r, hr, -⟩ := exec_read_closed arg h
      rw [hr]
      exact .answers _ _
  case enterTrailingBits arg => exact commandRuns_ite (.enterTrailingBits arg) (.answers _ _)
  case enterTrailingBytes arg => exact commandRuns_ite (.enterTrailingBytes arg) (.answers _ _)
  case readTrailBit arg => exact commandRuns_ite (.readTrailBit arg) (.answers _ _)
  case readTrailByte arg => exact commandRuns_ite (.readTrailByte arg) (.answers _ _)
  case getBit arg =>
    refine commandRuns_ite (fun h => ?_) (.answers _ _)
    cases peekBit arg.toNat s
    · exact .answers _ _
    · exact .answers _ _
  case release arg => exact .release arg
  case cmdReserved0909 => exact .answers _ _
  case cmdReserved0A0B => exact .answers _ _
  case cmdReserved0C0F => exact .answers _ _
  case cmdReserved101F => exact .answers _ _
  case cmdReserved203F => exact .answers _ _
  case cmdReserved407F => exact .answers _ _
  case cmdReserved80FF => exact .answers _ _
  all_goals exact absurd hi nofun

/-! ## Rejections (47_host_commands R440, R442) -/

theorem read_rejected (arg : BitVec 24) (h : commandLegal (.read arg) s = false) :
    exec (.read arg) s = .next (s.respond (.reject .badState)) := by
  show execRead arg s = _
  unfold execRead
  simp only [commandLegal, Bool.or_eq_false_iff, beq_eq_false_iff_ne] at h
  obtain ⟨⟨⟨hheader, hbody⟩, hdone⟩, hfailed⟩ := h
  cases hp : s.phase
  case header => exact absurd hp hheader
  case body => exact absurd hp hbody
  case done => exact absurd hp hdone
  case failed => exact absurd hp hfailed
  all_goals rfl

theorem illegal_rejected (h : commandLegal i s = false) : exec i s = .next (s.respond (.reject .badState)) := by
  cases i
  case start => exact if_neg (Bool.not_eq_true _ ▸ h)
  case read arg => exact read_rejected arg h
  case enterTrailingBits => exact if_neg (Bool.not_eq_true _ ▸ h)
  case enterTrailingBytes => exact if_neg (Bool.not_eq_true _ ▸ h)
  case readTrailBit => exact if_neg (Bool.not_eq_true _ ▸ h)
  case readTrailByte => exact if_neg (Bool.not_eq_true _ ▸ h)
  case getBit => exact if_neg (Bool.not_eq_true _ ▸ h)
  all_goals exact absurd h nofun

/-- A command that has run ends with a byte, the end of data, or an error. -/
theorem readBody_not_rejected (h : s.phase = .header ∨ s.phase = .body) (ht : (readBody s).finish = .next t) (r : RejectReason) :
    t.resp ≠ .reject r := by
  refine Res.Sat.finish (P := fun t => t.resp ≠ .reject r) ((readBody_answers h).weaken ?_ fun _ _ _ => nofun) ht
  rintro _ u (⟨b, hresp, -⟩ | ⟨hresp, -⟩) <;> rw [hresp] <;> nofun

theorem read_not_rejected {α : Type} {x : Res α} {f : α → Byte} (ht : (x.bind fun a u => .ok () (u.respond (.data (f a)))).finish = .next t)
    (r : RejectReason) : t.resp ≠ .reject r := by
  cases x <;> cases ht <;> nofun

/-- Settles O25: what each command runs answers something else than a rejection. -/
theorem rejectedCommands : Obligations.RejectedCommands := by
  refine ⟨fun i s _ h => illegal_rejected h, fun i s t r hi ht hresp => ?_⟩
  have hrun := exec_commandRuns hi s
  rw [ht] at hrun
  generalize hx : (Host.Outcome.next t : StepResult) = x at hrun
  cases hrun with
  | answers _ r' =>
    cases hx
    rw [show r' = .reject r from hresp]
    rfl
  | start _ _ => cases hx; cases hresp
  | read _ h => exact absurd hresp (readBody_not_rejected h hx.symm r)
  | enterTrailingBits _ _ => cases hx; cases hresp
  | enterTrailingBytes _ _ => cases hx; cases hresp
  | readTrailBit _ _ => exact absurd hresp (read_not_rejected hx.symm r)
  | readTrailByte _ _ => exact absurd hresp (read_not_rejected (f := id) hx.symm r)
  | release _ => cases hx; cases hresp

/-- A CTRL word decodes to a host command. -/
theorem decode_ctrl (v : Word) : decode (.plain .hostCmd v.toNat) = .ok (decodeHostCmd v.toNat) :=
  decode_plain nofun v.isLt

theorem step_of_ctrl {rest : List Request} {v : Word} (hq : s.queue = .write 0x00 4 v :: rest) :
    step s = exec (decodeHostCmd v.toNat) (s.withQueue rest) := by
  rw [step_of_queue hq, serve_word (.inr ⟨v, rfl, rfl⟩), runWord_of_decode (decode_ctrl v)]

theorem exec_decodeHostCmd_reserved {v : Nat} (h : 9 ≤ v % 256) (s : State) :
    exec (decodeHostCmd v) s = .next (s.respond (.reject .badCmd)) := by
  rcases Nat.eq_or_lt_of_le h with h9 | h10
  · rw [show decodeHostCmd v = .cmdReserved0909 (field v 8 24) by rw [decodeHostCmd, ← h9]; rfl]
    rfl
  · rw [decodeHostCmd_reserved h10]
    split_ifs <;> rfl

/-- Settles O26: each reserved row, and the decoder's rows from CMD 9 on. -/
theorem reservedCommandsAreRejected : Obligations.ReservedCommandsAreRejected := by
  refine ⟨fun s arg l1 l2 l4 l5 l6 l7 i hi => ?_, fun s rest v hq hv => ?_⟩
  · simp only [List.mem_cons, List.not_mem_nil, or_false] at hi
    rcases hi with rfl | rfl | rfl | rfl | rfl | rfl | rfl <;> rfl
  · rw [step_of_ctrl hq, exec_decodeHostCmd_reserved hv]
    rfl

/-! ## Commands of one line -/

/-- Settles O27: both answer in one step. -/
theorem nopAndRelease : Obligations.NopAndRelease := fun _ _ => ⟨rfl, rfl⟩

/-- Settles O29: the supply is written by its request and copied by START. -/
theorem startTakesTheSupply : Obligations.StartTakesTheSupply := by
  intro s rest bytes arg hphase
  refine ⟨fun hq => ?_, _, exec_start arg (canStart_iff.2 hphase), rfl, rfl⟩
  rw [step_of_queue hq]
  rfl

theorem exec_read_done (arg : BitVec 24) (h : s.phase = .done) : exec (.read arg) s = .next (s.respond .eod) := by
  show execRead arg s = _
  simp only [execRead, h]
  rfl

theorem exec_read_failed (arg : BitVec 24) (h : s.phase = .failed) :
    exec (.read arg) s = .next (s.respond (.error (errCode s.err))) := by
  show execRead arg s = _
  simp only [execRead, h]
  rfl

/-- Settles O30: READ's rule in the two phases. -/
theorem readAfterTheEnd : Obligations.ReadAfterTheEnd := by
  refine fun s arg => ⟨exec_read_done arg, fun e h herr => ?_⟩
  rw [exec_read_failed arg h, show errCode s.err = e.code by rw [herr]; rfl]
  rfl

end Sys2Proof.Machine
end


section
/-! Elements and micro-operations of one line, and the reads of the BitCursor (40_bit_cursor R161 to R170). A read moves the pair `8 * next + pos`
by the bits it takes, and a read that fails leaves no bit. -/

namespace Sys2Proof.Machine

open Sys2Proof

variable {s t : State}

/-! ## Elements -/

/-- Settles O40: the check of the stored header, and a put and emit. -/
theorem storedElements : Obligations.StoredElements := by
  refine fun s len nlen b => ⟨fun h => ?_, fun h => ?_, fun hacq hrem => ?_⟩
  · exact congrArg Res.finish (elemStoredHdr_complement s h)
  · exact congrArg Res.finish (elemStoredHdr_mismatch s h)
  · exact congrArg Res.finish (elemStoredByte_held b hrem hacq)

theorem putAndEmit_held (b : Byte) (h : s.win.acq = true) : putAndEmit b s = .ok () ((s.putByte b).emit b) := by
  rw [putAndEmit, winPut_held b h]
  rfl

/-- Settles O42: LIT is a put and an emit, EOB the end of the block. -/
theorem literalAndEndOfBlock : Obligations.LiteralAndEndOfBlock := by
  refine fun s b => ⟨fun hacq => ?_, fun hlast => ?_, fun hlast => ?_⟩
  · exact ⟨_, congrArg Res.finish (putAndEmit_held b hacq), rfl, read_write_same _ _ _, rfl, rfl, rfl, hacq⟩
  · exact congrArg Host.Outcome.next (blockEnd_of_last hlast)
  · exact congrArg Host.Outcome.next (blockEnd_of_last hlast)

theorem elemDynHdr_too_many {hlit hdist : BitVec 5} (hclen : BitVec 4) (s : State) (h : 286 < hlit.toNat + 257 ∨ 30 < hdist.toNat + 1) :
    elemDynHdr hlit hdist hclen s = .raised .malformedHuffmanStream s := if_pos h

theorem exec_distInvalid (low : BitVec 1) {mode : DistMode} (h : s.distMode = mode) :
    exec (.distInvalid low) s = .next (failedWith (distInvalidError mode) s) := by
  rw [← h]
  rfl

/-- Settles O45: each reserved value is one raise. -/
theorem reservedElementValuesRaise : Obligations.ReservedElementValuesRaise := fun s _ _ _ hclen low =>
  ⟨rfl, fun h => congrArg Res.finish (elemDynHdr_too_many hclen s h), rfl, exec_distInvalid low, exec_distInvalid low⟩

theorem elemZlibTrl_match {adler : Word} (h : adler = adler32Fn s.ckParam s.out) :
    elemZlibTrl adler s = .ok () { s with trail := adler } := if_pos h

theorem elemZlibTrl_mismatch {adler : Word} (h : adler ≠ adler32Fn s.ckParam s.out) :
    elemZlibTrl adler s = .raised .compressAlgorithmError { s with trail := adler } := if_neg h

theorem elemGzipTrl_match {crc isize : Word} (h : crc = crc32Fn s.ckParam s.out ∧ isize = s.outCount) :
    elemGzipTrl crc isize s = .ok () { s with trail := crc } := if_pos h

theorem elemGzipTrl_mismatch {crc isize : Word} (h : ¬(crc = crc32Fn s.ckParam s.out ∧ isize = s.outCount)) :
    elemGzipTrl crc isize s = .raised .compressAlgorithmError { s with trail := crc } := if_neg h

/-- Settles O48: both trailers, matching and not. -/
theorem trailerElements : Obligations.TrailerElements := fun _ _ _ =>
  ⟨fun h => congrArg Res.finish (elemZlibTrl_match h), fun h => congrArg Res.finish (elemZlibTrl_mismatch h),
    fun h => congrArg Res.finish (elemGzipTrl_match h), fun h => congrArg Res.finish (elemGzipTrl_mismatch h)⟩

/-! ## The fixed codes (41_canonical_huffman R190, R191) -/

/-- A table of `n` symbols in which each has a code with the given bits. -/
def hasPatterns (n : Nat) (bits : Nat → List Bool) (tab : CodeTable) : Bool :=
  (List.range n).all fun sym => tab.codes.any fun c => c.sym == sym && codeBits c.val c.len == bits sym

theorem exists_code_of_hasPatterns {n : Nat} {bits : Nat → List Bool} {tab : CodeTable} (h : hasPatterns n bits tab = true) {sym : Nat}
    (hsym : sym < n) : ∃ c ∈ tab.codes, c.sym = sym ∧ codeBits c.val c.len = bits sym := by
  simpa using List.all_eq_true.1 h sym (List.mem_range.2 hsym)

theorem fixedLitlen_patterns : (buildCodes fixedLitlenLengths).toOption.any (hasPatterns 288 fixedLitlenBits) = true := by
  decide +kernel

theorem fixedDist_patterns : (buildCodes fixedDistLengths).toOption.any (hasPatterns 32 fixedDistBits) = true := by
  decide +kernel

theorem exists_table_of_patterns {lengths : List Nat} {n : Nat} {bits : Nat → List Bool}
    (h : (buildCodes lengths).toOption.any (hasPatterns n bits) = true) :
    ∃ tab, buildCodes lengths = .ok tab ∧ hasPatterns n bits tab = true := by
  cases hb : buildCodes lengths with
  | ok tab =>
    rw [hb] at h
    exact ⟨tab, rfl, h⟩
  | error e =>
    rw [hb] at h
    cases h

/-- Bits that are equal, of values that fit, have equal values. -/
theorem codeBits_inj {v w n : Nat} (hv : v < 2 ^ n) (hw : w < 2 ^ n) (h : codeBits v n = codeBits w n) : v = w := by
  obtain ⟨-, hlead⟩ := codeBits_prefix (h ▸ List.prefix_rfl : codeBits v n <+: codeBits w n)
  simpa using (hlead hv hw).symm

/-- Settles O51: the two tables, code by code. -/
theorem fixedCodesArePatterns : Obligations.FixedCodesArePatterns := by
  obtain ⟨litlen, hlitlen, hpatterns⟩ := exists_table_of_patterns fixedLitlen_patterns
  obtain ⟨dist, hdist, hdpatterns⟩ := exists_table_of_patterns fixedDist_patterns
  refine ⟨⟨litlen, hlitlen, fun sym hsym => exists_code_of_hasPatterns hpatterns hsym⟩, dist, hdist, fun sym hsym => ?_⟩
  obtain ⟨c, hc, hcsym, hbits⟩ := exists_code_of_hasPatterns hdpatterns hsym
  have hlen : c.len = 5 := by simpa [fixedDistBits] using congrArg List.length hbits
  have hval := code_val_lt hdist hc
  rw [hlen] at hbits hval
  exact ⟨c, hc, hcsym, hlen, codeBits_inj hval (by omega) hbits⟩

/-! ## BC_READ_BIT and BC_READ_BITS -/

theorem returning_ok {α : Type} {r : Res α} {f : α → Ret} {a : α} (h : r = .ok a t) : returning r f = .next (t.setRet (f a)) := by
  rw [h]
  rfl

theorem returning_raised {α : Type} {r : Res α} {f : α → Ret} {e : StreamError} (h : r = .raised e t) :
    returning r f = .next (failedWith e t) := by
  rw [h]
  rfl

theorem exec_bcReadBits (n : Nat) (s : State) : exec (.bcReadBits n) s = returning (readBits n s) Ret.value := rfl

theorem Reads.setRet_eq (h : Reads s t) (r : Ret) : t.setRet r = { s with bc := (t.setRet r).bc, ret := r } := by
  rw [h.same]
  rfl

/-- Settles O53: one bit of the stream, or its end. -/
theorem readBitTakesTheNextBit : Obligations.ReadBitTakesTheNextBit := by
  refine fun s => ⟨fun b rest hs => ?_, fun hs => ?_⟩
  · obtain ⟨t, hr, hrest, hreads, hnext⟩ := readBit_upcoming hs
    exact ⟨t.setRet (.bit b), returning_ok hr, hreads.setRet_eq _, hrest, hnext⟩
  · exact returning_raised (readBit_end hs)

/-- The cursor moves by as many bits as are read, and a read bit leaves it inside a byte or at its end. -/
theorem readBitsLoop_position (n : Nat) (s : State) :
    (readBitsLoop n s).Sat True
      (fun _ t => 8 * t.bc.next + t.bc.pos.val = 8 * s.bc.next + s.bc.pos.val + n ∧ (0 < n ∨ 0 < s.bc.pos.val → 0 < t.bc.pos.val))
      fun _ _ => True := by
  induction n generalizing s with
  | zero => exact ⟨rfl, fun h => h.resolve_left (Nat.lt_irrefl 0)⟩
  | succ n ih =>
    have hbit : (readBit s).Sat True
        (fun _ t => 8 * t.bc.next + t.bc.pos.val = 8 * s.bc.next + s.bc.pos.val + 1 ∧ 0 < t.bc.pos.val) fun _ _ => True := by
      cases hr : readBit s with
      | ok b t =>
        obtain ⟨hpos, hkeep, hpull⟩ := readBit_pos hr
        by_cases h8 : s.bc.pos = 8
        · rw [if_pos h8] at hpos
          have h8' : s.bc.pos.val = 8 := congrArg Fin.val h8
          have := (hpull h8).2
          exact ⟨by omega, by omega⟩
        · rw [if_neg h8] at hpos
          have := (hkeep h8).2
          exact ⟨by omega, by omega⟩
      | raised e t => trivial
      | fault f => trivial
      | refused r => trivial
    refine Res.Sat.bind hbit fun b t ⟨hmove, hpos⟩ => Res.Sat.bind (ih t) fun v u ⟨hmove', hpos'⟩ => ?_
    exact ⟨by omega, fun _ => hpos' (.inr hpos)⟩

theorem readBits_next {n v : Nat} (hn : n ≤ 24) (h : readBits n s = .ok v t) :
    t.bc.next = s.bc.next + (n + s.bc.pos.val - 1) / 8 := by
  rw [readBits_eq hn] at h
  rcases Nat.eq_zero_or_pos n with rfl | hpos
  · cases h
    have := s.bc.pos.isLt
    omega
  · have hmove := readBitsLoop_position n s
    rw [h] at hmove
    obtain ⟨hmove, hlow⟩ := hmove
    have := hlow (.inl hpos)
    have := t.bc.pos.isLt
    omega

/-- No pull goes past the source's end. -/
def PulledTo (n : Nat) (s : State) : Prop := s.bc.next ≤ max n s.src.length

theorem streamClosed_pulledTo (n : Nat) : StreamClosed (PulledTo n) where
  bit {s} h := by
    rcases readBit_cases s with ⟨-, hr⟩ | ⟨b, -, hb, hr⟩ | ⟨-, -, hr⟩ <;> rw [hr]
    · exact h
    · obtain ⟨hlt, -⟩ := List.getElem?_eq_some_iff.1 hb
      exact Nat.le_trans hlt (Nat.le_max_right ..)
    · exact h
  align h := h
  other hbc hsrc h := by
    unfold PulledTo
    rw [hbc, hsrc]
    exact h

/-- A read that leaves no bit has pulled every byte. -/
theorem cursor_of_upcoming_nil (h : s.upcoming = []) : s.bc.pos = 8 ∧ s.src.length ≤ s.bc.next := by
  have hlen := upcoming_length s
  rw [h, List.length_nil] at hlen
  have := s.bc.pos.isLt
  exact ⟨Fin.ext (by show s.bc.pos.val = 8; omega), by omega⟩

theorem readBits_end {n : Nat} (hn : n ≤ 24) (h : s.upcoming.length < n) :
    ∃ t, readBits n s = .raised .unexpectedEndOfStream t ∧ Reads s t ∧ t.upcoming = [] ∧ t.bc.pos = 8
      ∧ t.bc.next = max s.bc.next s.src.length := by
  obtain ⟨t, hr, hend, hreads⟩ := readBitsLoop_end n h
  rw [← readBits_eq hn] at hr
  obtain ⟨hpos, hpulled⟩ := cursor_of_upcoming_nil hend
  have hmax := (streamClosed_pulledTo s.bc.next).keeps_readBits n (s := s) (Nat.le_max_left ..)
  rw [hr] at hmax
  have hsrc : t.src = s.src := by rw [hreads.same]
  have hle : t.bc.next ≤ max s.bc.next s.src.length := hsrc ▸ hmax
  have hge := hreads.pulled
  rw [hsrc] at hpulled
  exact ⟨t, hr, hreads, hend, hpos, by omega⟩

/-- Settles O54: a field of the stream, its end, and the width the spec refuses. -/
theorem readBitsTakesTheNextField : Obligations.ReadBitsTakesTheNextField := by
  refine fun s n => ⟨fun bits rest hn hs hlen => ?field, fun hn hs => ?ends, fun hn => ?wide⟩
  case field =>
    subst hlen
    obtain ⟨t, hr, hrest, hreads, hnil⟩ := readBits_upcoming bits hn hs
    refine ⟨t.setRet _, returning_ok hr, hreads.setRet_eq _, hrest, fun h0 => ?_, ?_⟩
    · rw [hnil (List.length_eq_zero_iff.1 h0)]
      rfl
    · rw [setRet_bc]
      exact readBits_next hn hr
  case ends =>
    obtain ⟨t, hr, hreads, hend, hpos, hnext⟩ := readBits_end hn hs
    exact ⟨_, returning_raised hr, failedWith_atCursor hreads.same, hend, hpos, hnext⟩
  case wide =>
    rw [exec_bcReadBits, readBits, if_pos hn]
    rfl

/-- Settles O55: each read of the cursor by its one case. -/
theorem alignedReads : Obligations.AlignedReads := by
  refine fun s => ⟨rfl, fun b hb => ?_, fun hb => ?_, fun k => ⟨fun hk => ?_, fun hk => ?_⟩⟩
  · exact returning_ok (readAlignedByte_some hb)
  · exact returning_raised (readAlignedByte_none hb)
  · exact exec_bcGetBit_of_some (peekBit_of_lt hk)
  · exact exec_bcGetBit_of_none (peekBit_of_le hk)

end Sys2Proof.Machine
end


section
/-! The window's micro-operations (43_sliding_window R231 to R244), and the bytes of its storage that an instruction leaves (R234). -/

namespace Sys2Proof.Machine

open Sys2Proof

variable {s t : State} {i : Instr}

/-! ## Refused accesses (20_memory R89, 43_sliding_window R244) -/

theorem serve_not_word {off size : Nat} (h : ¬(size = 4 ∧ off % 4 = 0)) (v : Word) (s : State) :
    serve (.read off size) s = .refused .hostAccessNotWord ∧ serve (.write off size v) s = .refused .hostAccessNotWord := by
  rw [← wordAccess_iff] at h
  exact ⟨if_neg h, if_neg h⟩

theorem winPutBulk_not_held {maxLen : Nat} {bytes : List Byte} (h : s.win.acq = false) :
    winPutBulk maxLen bytes s = .refused .windowNotHeld := if_neg (by rw [h]; exact Bool.false_ne_true)

theorem winCopy_not_held {d : Nat} (h : s.win.acq = false) : winCopy d s = .refused .windowNotHeld :=
  if_neg (by rw [h]; exact Bool.false_ne_true)

theorem winCopyBulk_not_held {d n : Nat} (h : s.win.acq = false) : winCopyBulk d n s = .refused .windowNotHeld :=
  if_neg (by rw [h]; exact Bool.false_ne_true)

theorem returning_refused {α : Type} {r : Res α} {f : α → Ret} {x : Refusal} (h : r = .refused x) : returning r f = .refused x := by
  rw [h]
  rfl

/-- Settles O56: accesses that are not words, and a window that is not held. -/
theorem contractViolationsAreRefused : Obligations.ContractViolationsAreRefused := by
  refine fun s rest off size v b bytes d n => ⟨fun hword hq => ?_, fun hacq => ⟨?_, ?_, ?_, ?_⟩⟩
  · obtain ⟨hread, hwrite⟩ := serve_not_word hword v (s.withQueue rest)
    rcases hq with hq | hq
    · rw [step_of_queue hq, hread]
    · rw [step_of_queue hq, hwrite]
  · exact returning_refused (winPut_not_held b hacq)
  · exact returning_refused (winPutBulk_not_held hacq)
  · exact returning_refused (winCopy_not_held hacq)
  · exact returning_refused (winCopyBulk_not_held hacq)

/-! ## The window's control -/

theorem exec_winCreate {m : Nat} (h : 1 ≤ m ∧ m ≤ Config.windowCapacity) (s : State) :
    exec (.winCreate m) s = .next ((s.createWindow m).setRet .none) := if_pos h

theorem exec_winSetCap_of_lower {m : Nat} (h : s.win.mayLower m = true) :
    exec (.winSetCap m) s = .next ((s.lowerCap m).setRet (.flag true)) := if_pos h

theorem exec_winSetCap_of_not_lower {m : Nat} (h : ¬ s.win.mayLower m = true) :
    exec (.winSetCap m) s = .next (s.setRet (.flag false)) := if_neg h

theorem mayLower_iff (w : Window) (m : Nat) : w.mayLower m = true ↔ 1 ≤ m ∧ m ≤ w.maxDist := by
  simp only [Window.mayLower, Bool.and_eq_true, decide_eq_true_eq]

/-- Settles O57: the five control operations. -/
theorem windowControl : Obligations.WindowControl := by
  refine fun s m => ⟨fun hlow hhigh => exec_winCreate ⟨hlow, hhigh⟩ s, rfl, rfl, rfl, fun hlow hhigh => ?_, fun h => ?_⟩
  · exact exec_winSetCap_of_lower ((mayLower_iff _ _).2 ⟨hlow, hhigh⟩)
  · refine exec_winSetCap_of_not_lower fun hm => ?_
    obtain ⟨hlow, hhigh⟩ := (mayLower_iff _ _).1 hm
    omega

/-! ## Puts -/

/-- The window after bytes put in order. -/
abbrev Window.putAll (bytes : List Byte) (w : Window) : Window := bytes.foldl (fun w b => w.put b) w

theorem winPutAll_held (bytes : List Byte) (h : s.win.acq = true) :
    winPutAll bytes s = .ok () { s with win := s.win.putAll bytes } := by
  induction bytes generalizing s with
  | nil => rfl
  | cons b bytes ih =>
    rw [winPutAll, winPut_held b h, bind_ok, ih (s := s.putByte b) h]
    rfl

theorem winPutBulk_held (maxLen : Nat) (bytes : List Byte) (h : s.win.acq = true) :
    winPutBulk maxLen bytes s = .ok (min maxLen bytes.length) { s with win := s.win.putAll (bytes.take maxLen) } := by
  rw [winPutBulk, if_pos h, winPutAll_held _ h]
  rfl

/-- Settles O58: one put, and its repetition. -/
theorem windowPuts : Obligations.WindowPuts := by
  refine fun s b bytes maxLen hacq => ⟨⟨_, returning_ok (winPut_held b hacq), rfl, ?_⟩, returning_ok (winPutBulk_held maxLen bytes hacq)⟩
  exact ⟨read_write_same _ _ _, rfl, rfl, rfl, hacq⟩

/-! ## Copies -/

theorem Inv.windowOk (h : Inv s) : WindowOk s.win := ((inv_iff s).1 h).1.window

/-- Settles O59: a legal distance has a stored byte; any other raises. -/
theorem windowCopy : Obligations.WindowCopy := by
  refine fun s d hacq => ⟨fun h hpos hmax hfilled => ?_, fun h => ?_⟩
  · obtain ⟨b, hb, hr⟩ := winCopy_ok h.windowOk hacq ((legal_iff _ _).2 ⟨hpos, hmax, hfilled⟩)
    exact ⟨b, hb, returning_ok hr⟩
  · exact returning_raised (winCopy_illegal hacq ((legal_eq_false_iff _ _).2 h))

/-- A put keeps every legal distance legal, as the filled count does not fall. -/
theorem legal_put {w : Window} (hw : WindowOk w) {d : Nat} (h : w.legal d = true) (b : Byte) : (w.put b).legal d = true := by
  obtain ⟨hpos, hmax, hfilled⟩ := (legal_iff w d).1 h
  obtain ⟨-, hcap, -⟩ := hw
  refine (legal_iff _ _).2 ⟨hpos, hmax, ?_⟩
  rw [put_filled]
  exact Nat.le_min.2 ⟨Nat.le_succ_of_le hfilled, Nat.le_trans hfilled hcap⟩

/-- The bytes of a copy at distance `d`: the first `d` stood in the window, every later one is the one `d` before it (20_memory R96). -/
def CopyOf (w : Window) (d : Nat) (bs : List Byte) : Prop :=
  (∀ k, k < bs.length → k < d → bs[k]? = w.look (d - k)) ∧ ∀ k, k < bs.length → d ≤ k → bs[k]? = bs[k - d]?

/-- A copied byte, and a copy from the window it was put into. -/
theorem CopyOf.cons {w : Window} (hw : WindowOk w) {d : Nat} (hd : w.legal d = true) {b : Byte} {bs : List Byte} (hb : w.look d = some b)
    (h : CopyOf (w.put b) d bs) : CopyOf w d (b :: bs) := by
  obtain ⟨hpos, -, hfilled⟩ := (legal_iff w d).1 hd
  obtain ⟨hwptr, hcap, -⟩ := hw
  obtain ⟨hfirst, hlater⟩ := h
  refine ⟨fun k hk hkd => ?_, fun k hk hdk => ?_⟩
  · cases k with
    | zero => exact hb.symm
    | succ k =>
      rw [List.getElem?_cons_succ, hfirst k (by simpa using hk) (by omega), show d - k = (d - (k + 1)) + 1 by omega,
        look_put_succ w b _ hwptr (by omega) (by omega)]
  · obtain ⟨k, rfl⟩ : ∃ j, k = j + 1 := ⟨k - 1, by omega⟩
    rw [List.length_cons, Nat.succ_lt_succ_iff] at hk
    rw [List.getElem?_cons_succ]
    rcases Nat.eq_or_lt_of_le hdk with hself | hlt
    · rw [hfirst k hk (by omega), ← hself, Nat.sub_self, show d - k = 1 by omega, look_put_one w b hwptr]
      rfl
    · rw [hlater k hk (by omega), show k + 1 - d = (k - d) + 1 by omega, List.getElem?_cons_succ]

theorem winCopyAll_legal {d : Nat} (n : Nat) (hw : WindowOk s.win) (hacq : s.win.acq = true) (hd : s.win.legal d = true) :
    ∃ bs, bs.length = n ∧ CopyOf s.win d bs ∧ winCopyAll d n s = .ok bs { s with win := s.win.putAll bs } := by
  induction n generalizing s with
  | zero => exact ⟨[], rfl, ⟨fun _ hk => absurd hk (Nat.not_lt_zero _), fun _ hk => absurd hk (Nat.not_lt_zero _)⟩, rfl⟩
  | succ n ih =>
    obtain ⟨b, hb, hr⟩ := winCopy_ok hw hacq hd
    obtain ⟨bs, hlen, hcopy, hbs⟩ := ih (s := s.putByte b) (put_windowOk b hw) hacq (legal_put hw hd b)
    refine ⟨b :: bs, by rw [List.length_cons, hlen], hcopy.cons hw hd hb, ?_⟩
    rw [winCopyAll, hr, bind_ok, hbs]
    rfl

theorem winCopyBulk_held {d n : Nat} (h : s.win.acq = true) : winCopyBulk d n s = winCopyAll d n s := if_pos h

theorem winCopyAll_illegal {d n : Nat} (hn : 0 < n) (hacq : s.win.acq = true) (h : s.win.legal d = false) :
    winCopyAll d n s = .raised .illegalDistance s := by
  obtain ⟨n, rfl⟩ : ∃ m, n = m + 1 := ⟨n - 1, by omega⟩
  rw [winCopyAll, winCopy_illegal hacq h]
  rfl

/-- Settles O60: a bulk copy reads the window its own bytes were put into. -/
theorem bulkCopyOverlaps : Obligations.BulkCopyOverlaps := by
  refine fun s d n hacq => ⟨fun h hpos hmax hfilled => ?_, fun hn h => ?_, ?_⟩
  · obtain ⟨bs, rfl, ⟨hfirst, hlater⟩, hr⟩ := winCopyAll_legal n h.windowOk hacq ((legal_iff _ _).2 ⟨hpos, hmax, hfilled⟩)
    exact ⟨bs, rfl, hfirst, hlater, returning_ok ((winCopyBulk_held hacq).trans hr)⟩
  · exact returning_raised ((winCopyBulk_held hacq).trans (winCopyAll_illegal hn hacq ((legal_eq_false_iff _ _).2 h)))
  · exact returning_ok (winCopyBulk_held hacq)

/-! ## Bytes an instruction leaves (43_sliding_window R234) -/

/-- Every byte of the storage outside the indices `stored` reads as before. -/
abbrev KeptOutside (stored : List Nat) (s t : State) : Prop :=
  ∀ a, a ∉ stored → Memory.read t.win.mem a = Memory.read s.win.mem a

abbrev StoresAt {α : Type} (stored : List Nat) (s : State) (r : Res α) : Prop :=
  r.Sat True (fun _ t => KeptOutside stored s t) fun _ t => KeptOutside stored s t

theorem keptOutside_putByte (b : Byte) (s : State) : KeptOutside [s.win.wptr] s (s.putByte b) :=
  fun _ ha => read_write_other _ _ (fun h => ha (List.mem_singleton.2 h))

theorem Produced.keptOutside {r : Option Byte} (h : Produced r s t) : KeptOutside [s.win.wptr] s t := by
  cases r with
  | some b =>
    obtain ⟨hwin, -⟩ := h
    rw [KeptOutside, hwin]
    exact keptOutside_putByte b s
  | none =>
    obtain ⟨hwin, -⟩ := h
    rw [KeptOutside, hwin]
    exact fun _ _ => rfl

theorem Produces.storesAt {α : Type} {f : α → Option Byte} {r : Res α} (h : Produces f s r) : StoresAt [s.win.wptr] s r :=
  h.weaken (fun _ _ ht => ht.keptOutside) fun _ _ ht => ht.keptOutside

theorem storesAt_winPut (b : Byte) (s : State) : StoresAt [s.win.wptr] s (winPut b s) := by
  cases h : s.win.acq with
  | true =>
    rw [winPut_held b h]
    exact keptOutside_putByte b s
  | false =>
    rw [winPut_not_held b h]
    trivial

theorem storesAt_winCopy (d : Nat) (s : State) : StoresAt [s.win.wptr] s (winCopy d s) := by
  rcases winCopy_cases d s with ⟨-, hr⟩ | ⟨-, -, hr⟩ | ⟨-, -, -, hr⟩ | ⟨b, -, -, -, hr⟩ <;> rw [hr]
  · trivial
  · exact fun _ _ => rfl
  · trivial
  · exact keptOutside_putByte b s

theorem putAll_mem (bytes : List Byte) (w : Window) {a : Nat} (ha : a ∉ putIndices w.wptr bytes.length) :
    Memory.read (w.putAll bytes).mem a = Memory.read w.mem a := by
  induction bytes generalizing w with
  | nil => rfl
  | cons b bytes ih =>
    obtain ⟨hne, hrest⟩ := not_or.1 (mt List.mem_cons.2 ha)
    exact (ih (w.put b) hrest).trans (read_write_other _ b hne)

theorem storesAt_winPutAll (bytes : List Byte) (s : State) : StoresAt (putIndices s.win.wptr bytes.length) s (winPutAll bytes s) := by
  cases h : s.win.acq with
  | true =>
    rw [winPutAll_held bytes h]
    exact fun a ha => putAll_mem bytes s.win ha
  | false =>
    cases bytes with
    | nil => exact fun _ _ => rfl
    | cons b bytes =>
      rw [winPutAll, winPut_not_held b h]
      trivial

theorem storesAt_winPutBulk (maxLen : Nat) (bytes : List Byte) (s : State) :
    StoresAt (putIndices s.win.wptr (min maxLen bytes.length)) s (winPutBulk maxLen bytes s) := by
  unfold winPutBulk
  split
  · have h := storesAt_winPutAll (bytes.take maxLen) s
    rw [List.length_take] at h
    exact Res.Sat.bind h fun _ _ ht => ht
  · trivial

theorem storesAt_winCopyAll (d n : Nat) (s : State) : StoresAt (putIndices s.win.wptr n) s (winCopyAll d n s) := by
  induction n generalizing s with
  | zero => exact fun _ _ => rfl
  | succ n ih =>
    rw [winCopyAll]
    rcases winCopy_cases d s with ⟨-, hr⟩ | ⟨-, -, hr⟩ | ⟨-, -, -, hr⟩ | ⟨b, -, -, -, hr⟩ <;> rw [hr]
    · trivial
    · exact fun _ _ => rfl
    · trivial
    · have hrest : ∀ t, KeptOutside (putIndices (s.putByte b).win.wptr n) (s.putByte b) t → KeptOutside (putIndices s.win.wptr (n + 1)) s t := by
        intro t ht a ha
        obtain ⟨hne, hin⟩ := not_or.1 (mt List.mem_cons.2 ha)
        exact (ht a hin).trans (read_write_other _ b hne)
      rw [bind_ok]
      exact Res.Sat.bind ((ih (s.putByte b)).weaken (fun _ t => hrest t) fun _ t => hrest t) fun _ _ ht => ht

theorem storesAt_winCopyBulk (d n : Nat) (s : State) : StoresAt (putIndices s.win.wptr n) s (winCopyBulk d n s) := by
  unfold winCopyBulk
  split
  · exact storesAt_winCopyAll d n s
  · trivial

theorem storesAt_elemStoredByte (b : Byte) (s : State) : StoresAt [s.win.wptr] s (elemStoredByte b s) := by
  unfold elemStoredByte
  split
  · trivial
  · exact Res.Sat.bind (produces_putAndEmit b s).storesAt fun _ _ ht => ht

/-! ## READ: a new window begins at index 0 (43_sliding_window R231) -/

theorem Agree.win {F : List Field} (h : Agree F s t) (hF : ∀ f ∈ productFields, f ∉ F) : t.win = s.win := (produced_none_of_agree h hF).1

/-- Where the first put after a frame header stores. -/
def readIndex (s : State) : Nat := if s.phase = .header ∧ s.frame = .zlib then 0 else s.win.wptr

theorem elemZlibHdr_window (h : BitVec 16) (s : State) :
    (elemZlibHdr h s).Sat True (fun _ t => t.win.mem = s.win.mem ∧ t.win.wptr = 0) fun _ t => t.win.mem = s.win.mem := by
  unfold elemZlibHdr
  split
  · exact ⟨rfl, rfl⟩
  · exact rfl

theorem zlibHeader_window (s : State) :
    (zlibHeader s).Sat True (fun _ t => t.win.mem = s.win.mem ∧ t.win.wptr = 0) fun _ t => t.win.mem = s.win.mem := by
  have hbyte (u : State) : (readAlignedByte u).Sat True (fun _ t => t.win = u.win) fun _ t => t.win = u.win :=
    (frames_readByte u).weaken (fun _ _ ht => ht.win (by decide)) fun _ _ ht => ht.win (by decide)
  refine Res.Sat.bind ((hbyte s).weaken (fun _ _ ht => ht) fun _ _ ht => by rw [ht]) fun cmf u hu => ?_
  rw [← hu]
  refine Res.Sat.bind ((hbyte u).weaken (fun _ _ ht => ht) fun _ _ ht => by rw [ht]) fun flg v hv => ?_
  rw [← hv]
  exact elemZlibHdr_window _ v

theorem frames_gzipHeader (s : State) : Frames [.bc] s (gzipHeader s) :=
  Frames.bind (frames_checkedByte 0 s) fun _ t => Frames.bind (frames_checkedByte 1 t) fun _ u =>
    Frames.bind (frames_checkedByte 2 u) fun _ v => Frames.bind (frames_checkedByte 3 v) fun _ w => frames_gzipHdr _ w

theorem readHeader_window (s : State) :
    (readHeader s).Sat True (fun _ t => t.win.mem = s.win.mem ∧ t.win.wptr = readIndex s) fun _ t => t.win.mem = s.win.mem := by
  unfold readHeader readIndex
  by_cases hheader : s.phase = .header
  · rw [if_pos hheader]
    unfold frameHeader
    refine Res.Sat.bind (Q := fun _ t => t.win.mem = s.win.mem ∧ t.win.wptr = if s.phase = .header ∧ s.frame = .zlib then 0 else s.win.wptr)
      ?_ fun _ _ ht => ht
    cases hframe : s.frame with
    | raw => exact ⟨rfl, (if_neg (by simp)).symm⟩
    | zlib => exact (zlibHeader_window s).weaken (fun _ _ ht => ⟨ht.1, ht.2.trans (if_pos ⟨hheader, rfl⟩).symm⟩) fun _ _ ht => ht
    | gzip =>
      refine (frames_gzipHeader s).weaken (fun _ _ ht => ?_) fun _ _ ht => by rw [ht.win (by decide)]
      rw [ht.win (by decide)]
      exact ⟨rfl, (if_neg (by simp)).symm⟩
  · rw [if_neg hheader, if_neg (fun h => hheader h.1)]
    exact ⟨rfl, rfl⟩

theorem storesAt_readBody (s : State) : StoresAt [readIndex s] s (readBody s) := by
  have hkept : ∀ {t u : State}, t.win.mem = s.win.mem ∧ t.win.wptr = readIndex s → KeptOutside [t.win.wptr] t u →
      KeptOutside [readIndex s] s u := by
    rintro t u ⟨hmem, hwptr⟩ h a ha
    rw [← hmem]
    exact h a (by rwa [hwptr])
  refine Res.Sat.bind ((readHeader_window s).weaken (fun _ _ ht => ht) fun _ t ht a _ => by rw [ht]) fun _ t ht => ?_
  refine Res.Sat.bind ((produces_produce _ t).storesAt.weaken (fun _ _ => hkept ht) fun _ _ => hkept ht) fun r u hu => ?_
  have hend : ∀ v, Agree [.bc, .phase, .eng, .trail, .resp] u v → KeptOutside [readIndex s] s v := by
    intro v hv a ha
    rw [hv.win (by decide)]
    exact hu a ha
  exact (frames_readEnd r u).weaken (fun _ v hv => hend v hv) fun _ v hv => hend v hv

theorem StoresAt.finish {stored : List Nat} {r : Res Unit} (h : StoresAt stored s r) (ht : r.finish = .next t) : KeptOutside stored s t :=
  Res.Sat.finish (P := KeptOutside stored s) h ht

theorem StoresAt.returning {α : Type} {stored : List Nat} {r : Res α} {f : α → Ret} (h : StoresAt stored s r) (ht : returning r f = .next t) :
    KeptOutside stored s t :=
  StoresAt.finish (r := r.bind fun a u => .ok () (u.setRet (f a))) (Res.Sat.bind h fun _ _ hu => hu) ht

theorem read_keeps_bytes {arg : BitVec 24} (ht : exec (.read arg) s = .next t) : KeptOutside (storedAt (.read arg) s) s t := by
  have hstored : storedAt (.read arg) s = [readIndex s] := (apply_ite (fun a => [a]) _ _ _).symm
  rw [hstored]
  by_cases hopen : s.phase = .header ∨ s.phase = .body
  · rw [exec_read_open arg hopen] at ht
    exact (storesAt_readBody s).finish ht
  · obtain ⟨r, hr, -⟩ := exec_read_closed arg hopen
    rw [hr] at ht
    cases ht
    exact fun _ _ => rfl

/-- Settles O9: the seven instructions that put, one by one; the others do not write the storage. -/
theorem windowBytesKept : Obligations.WindowBytesKept := by
  intro i s t ht
  by_cases hmem : Field.winMem ∈ writes i
  · cases i
    case storedByte b => exact (storesAt_elemStoredByte b s).finish ht
    case lit b => exact (produces_putAndEmit b s).storesAt.finish ht
    case read arg => exact read_keeps_bytes ht
    case winPut b => exact (storesAt_winPut b s).returning ht
    case winPutBulk maxLen bytes => exact (storesAt_winPutBulk maxLen bytes s).returning ht
    case winCopy d => exact (storesAt_winCopy d s).returning ht
    case winCopyBulk d n => exact (storesAt_winCopyBulk d n s).returning ht
    all_goals exact absurd hmem (of_decide_eq_true rfl)
  · exact fun a _ => congrArg (Memory.read · a) (exec_agree ht .winMem hmem)

end Sys2Proof.Machine
end


section
/-! Inside an open session no operation stops (60_exceptions R492): each one answers or raises, and leaves a `Live` state. Of an operation that
neither puts nor copies, `Live` follows from what earlier lemmas say of it apart: it keeps `CoreOk`, it writes few fields, the stream position
does not fall. -/

namespace Sys2Proof.Machine

open Sys2Proof

variable {α β : Type} {s t : State}

/-! ## Operations that never stop -/

/-- The operation answers or raises: no fault and no refusal. -/
abbrev Completes (r : Res α) : Prop := r.Sat False (fun _ _ => True) fun _ _ => True

theorem Completes.bind {r : Res α} {k : α → State → Res β} (h : Completes r) (hk : ∀ a t, Completes (k a t)) : Completes (r.bind k) :=
  Res.Sat.bind h fun a t _ => hk a t

theorem Res.Sat.completes {r : Res α} {Q : α → State → Prop} {E : StreamError → State → Prop} (h : r.Sat False Q E) : Completes r :=
  h.weaken (fun _ _ _ => trivial) fun _ _ _ => trivial

/-- What holds of an operation unless it stops, holds of one that does not stop. -/
theorem Completes.sat {r : Res α} {Q : α → State → Prop} {E : StreamError → State → Prop} (h : Completes r) (hsat : r.Sat True Q E) :
    r.Sat False Q E := by
  cases r with
  | ok a t => exact hsat
  | raised e t => exact hsat
  | fault f => exact h.elim
  | refused x => exact h.elim

theorem Scans.sat {good : α → β → State → Prop} {bad : State → Prop} {r : Res α} {p : Scan β} (h : Scans good bad r p) :
    r.Sat False (fun a t => ∃ b, good a b t) fun _ t => bad t := by
  cases p with
  | good b rest =>
    obtain ⟨a, t, rfl, -, ht⟩ := h
    exact ⟨b, ht⟩
  | bad e rest =>
    obtain ⟨t, rfl, -, ht⟩ := h
    exact ht

theorem completes_readBits {n : Nat} (hn : n ≤ 24) (s : State) : Completes (readBits n s) := (readBits_reads hn s).completes

theorem completes_readByte (s : State) : Completes (readAlignedByte s) := (readAlignedByte_reads s).completes

theorem completes_readBytes (n : Nat) (s : State) : Completes (readBytes n s) := (readBytes_reads n s).completes

theorem completes_elemStoredHdr (len nlen : BitVec 16) (s : State) : Completes (elemStoredHdr len nlen s) := by
  unfold elemStoredHdr
  split <;> trivial

theorem completes_readField16 (s : State) : Completes (readField16 s) :=
  (completes_readBits (by decide) s).bind fun _ _ => trivial

theorem completes_storedHeader (s : State) : Completes (storedHeader s) :=
  (completes_readField16 _).bind fun _ _ => (completes_readField16 _).bind fun _ _ => completes_elemStoredHdr _ _ _

theorem completes_blockElem (bfinal : Bool) (btype : Nat) (s : State) : Completes (blockElem bfinal btype s) := by
  unfold blockElem
  split
  · exact completes_storedHeader _
  · exact trivial
  · exact (dynamicHeader_scans _).sat.completes
  · exact trivial

theorem completes_blockHeader (s : State) : Completes (blockHeader s) :=
  (readBit_reads s).completes.bind fun _ _ => (completes_readBits (by decide) _).bind fun _ _ => completes_blockElem _ _ _

theorem completes_elemZlibHdr (h : BitVec 16) (s : State) : Completes (elemZlibHdr h s) := by
  unfold elemZlibHdr
  split <;> trivial

theorem completes_zlibHeader (s : State) : Completes (zlibHeader s) :=
  (completes_readByte s).bind fun _ _ => (completes_readByte _).bind fun _ _ => completes_elemZlibHdr _ _

theorem completes_skipBytes (n : Nat) (s : State) : Completes (skipBytes n s) := by
  induction n generalizing s with
  | zero => trivial
  | succ n ih => exact (completes_readByte s).bind fun _ t => ih t

/-- Each byte of a string is pulled, so a bound above the bytes left is not used up. -/
theorem completes_skipString {n : Nat} (h : s.unread.length < n) : Completes (skipString n s) := by
  induction n generalizing s with
  | zero => exact absurd h (Nat.not_lt_zero _)
  | succ n ih =>
    rw [skipString]
    cases hs : s.unread with
    | nil =>
      rw [readAlignedByte_end hs]
      trivial
    | cons b more =>
      rw [readAlignedByte_cons hs, bind_ok]
      split
      · trivial
      · refine ih ?_
        rw [afterBytes_unread (g := [b]) (more := more) hs]
        rw [hs] at h
        exact Nat.lt_of_succ_lt_succ h

theorem completes_optionalField {present : Bool} {skip : State → Res Unit} (h : ∀ t, Completes (skip t)) (s : State) :
    Completes (optionalField present skip s) := by
  unfold optionalField
  split
  · exact h s
  · trivial

theorem completes_skipExtra (s : State) : Completes (skipExtra s) :=
  (completes_readBytes 2 s).bind fun _ _ => completes_skipBytes _ _

theorem completes_gzipFields (flg : Byte) (s : State) : Completes (gzipFields flg s) :=
  (completes_skipBytes 6 s).bind fun _ _ => (completes_optionalField completes_skipExtra _).bind fun _ _ =>
    (completes_optionalField (fun t => completes_skipString (unread_length_lt_stringBound t)) _).bind fun _ _ =>
      (completes_optionalField (fun t => completes_skipString (unread_length_lt_stringBound t)) _).bind fun _ _ =>
        completes_optionalField (completes_skipBytes 2) _

theorem completes_checkedByte (k : Nat) (s : State) : Completes (checkedByte k s) := by
  refine (completes_readByte s).bind fun b t => ?_
  split <;> trivial

theorem completes_elemGzipHdr (start : BitVec 32) (s : State) : Completes (elemGzipHdr start s) := by
  unfold elemGzipHdr
  split
  · exact completes_gzipFields _ s
  · trivial

theorem completes_gzipHeader (s : State) : Completes (gzipHeader s) :=
  (completes_checkedByte 0 s).bind fun _ _ => (completes_checkedByte 1 _).bind fun _ _ => (completes_checkedByte 2 _).bind fun _ _ =>
    (completes_checkedByte 3 _).bind fun _ _ => completes_elemGzipHdr _ _

theorem completes_elemZlibTrl (adler : Word) (s : State) : Completes (elemZlibTrl adler s) := by
  unfold elemZlibTrl
  split <;> trivial

theorem completes_elemGzipTrl (crc isize : Word) (s : State) : Completes (elemGzipTrl crc isize s) := by
  unfold elemGzipTrl
  split <;> trivial

theorem completes_trailerOf (f : Frame) (s : State) : Completes (trailerOf f s) := by
  cases f
  · trivial
  · exact (completes_readBytes 4 _).bind fun _ _ => completes_elemZlibTrl _ _
  · exact (completes_readBytes 8 _).bind fun _ _ => completes_elemGzipTrl _ _ _

theorem completes_frameEnd (s : State) : Completes (frameEnd s) := (completes_trailerOf s.frame s).bind fun _ _ => trivial

/-! ## Operations that neither put nor copy -/

/-- With no copy outstanding, a step that keeps the core, the window, the output and the pending copy, and does not go back in the stream. -/
theorem Live.of_agree {F : List Field} (h : Live s) (hpend : s.pendLen = 0) (ha : Agree F s t)
    (hF : ∀ f ∈ Field.pendLen :: productFields, f ∉ F) (hcore : CoreOk t) (hpos : s.bitpos ≤ t.bitpos)
    (hrem : t.storedRem ≠ 0 → t.eng = .stored) : Live t := by
  obtain ⟨hwin, hout, -⟩ := produced_none_of_agree ha fun f hf => hF f (List.mem_cons_of_mem _ hf)
  have htpend : t.pendLen = 0 := Eq.trans (ha .pendLen (hF _ (List.mem_cons_self ..))) hpend
  refine ⟨hcore, ?_, hwin ▸ h.held, fun hlt => absurd htpend (Nat.ne_of_gt hlt), hrem, ?_⟩
  · have hlog := h.log
    unfold LogOk at hlog ⊢
    rw [hwin, hout]
    exact hlog
  · have hbudget := h.budget
    unfold Slack at hbudget ⊢
    rw [hout, htpend]
    omega

/-- The four facts of an operation from which `Live` of all it leaves follows. -/
theorem live_of_facts {F : List Field} {r : Res α} (h : Live s) (hpend : s.pendLen = 0) (hcompletes : Completes r) (hframe : Frames F s r)
    (hF : ∀ f ∈ Field.pendLen :: productFields, f ∉ F) (hcore : CoreOk s → Keeps CoreOk r)
    (hstream : ∀ {P : State → Prop}, StreamClosed P → P s → Keeps P r)
    (hrem : Keeps (fun t => t.storedRem ≠ 0 → t.eng = .stored) r) :
    r.Sat False (fun _ t => Live t ∧ t.pendLen = 0) fun _ t => Live t := by
  have hpos := hstream (streamClosed_atLeast s.bitpos) ⟨h.core.cursor, Nat.le_refl _⟩
  have hall := ((hframe.and (hcore h.core)).and hpos).and hrem
  refine hcompletes.sat (hall.weaken ?_ ?_)
  · rintro _ t ⟨⟨⟨ha, hc⟩, -, hp⟩, hr⟩
    exact ⟨h.of_agree hpend ha hF hc hp hr, Eq.trans (ha .pendLen (hF _ (List.mem_cons_self ..))) hpend⟩
  · rintro _ t ⟨⟨⟨ha, hc⟩, -, hp⟩, hr⟩
    exact h.of_agree hpend ha hF hc hp hr

theorem Res.Sat.with {r : Res α} {Q Q' : α → State → Prop} {E E' : StreamError → State → Prop} (h : r.Sat False Q E)
    (h' : r.Sat True Q' E') : r.Sat False (fun a t => Q a t ∧ Q' a t) fun e t => E e t ∧ E' e t :=
  h.completes.sat ((Sat.mono_stop h).and h')

/-! ## Block headers and stored bytes -/

/-- The engine is in a block or between two (10_state R33). -/
abbrev Decoding (g : Eng) : Prop := g = .blockFree ∨ g = .stored ∨ g = .fixedHuffman ∨ g = .dynamicHuffman

/-- Bytes are left only in a stored block. -/
abbrev RemOk (s : State) : Prop := s.storedRem ≠ 0 → s.eng = .stored

theorem remOk_of_zero (h : s.storedRem = 0) : RemOk s := fun hne => absurd h hne

theorem Agree.storedRem {F : List Field} (h : Agree F s t) (hF : Field.storedRem ∉ F) : t.storedRem = s.storedRem := h .storedRem hF

theorem storedHeader_engine (h : s.storedRem = 0) :
    (storedHeader s).Sat True (fun _ t => Decoding t.eng ∧ RemOk t) fun _ t => t.storedRem = 0 := by
  have hfield (u : State) (hu : u.storedRem = 0) : (readField16 u).Sat True (fun _ t => t.storedRem = 0) fun _ t => t.storedRem = 0 :=
    Res.Sat.bind ((frames_readBits 16 u).weaken (fun _ _ ht => (ht.storedRem (by decide)).trans hu)
      fun _ _ ht => (ht.storedRem (by decide)).trans hu) fun _ _ ht => ht
  refine Res.Sat.bind (hfield s.align h) fun len t ht => Res.Sat.bind (hfield t ht) fun nlen u hu => ?_
  unfold elemStoredHdr
  split
  · exact ⟨.inr (.inl rfl), fun _ => rfl⟩
  · exact hu

theorem dynamicHeader_engine (h : s.storedRem = 0) :
    (dynamicHeader s).Sat True (fun _ t => Decoding t.eng ∧ RemOk t) fun _ t => t.storedRem = 0 := by
  refine Sat.mono_stop ((dynamicHeader_scans s).sat.weaken ?_ ?_)
  · rintro _ t ⟨v, ht⟩
    rw [ht]
    exact ⟨.inr (.inr (.inr rfl)), remOk_of_zero h⟩
  · rintro _ t ht
    rw [ht]
    exact h

theorem blockElem_engine (bfinal : Bool) (btype : Nat) (h : s.storedRem = 0) :
    (blockElem bfinal btype s).Sat True (fun _ t => Decoding t.eng ∧ RemOk t) fun _ t => t.storedRem = 0 := by
  unfold blockElem
  split
  · exact storedHeader_engine (s := s.setLast bfinal) h
  · exact ⟨.inr (.inr (.inl rfl)), remOk_of_zero h⟩
  · exact dynamicHeader_engine (s := s.setLast bfinal) h
  · exact h

theorem blockHeader_engine (h : s.storedRem = 0) :
    (blockHeader s).Sat True (fun _ t => Decoding t.eng ∧ RemOk t) fun _ t => t.storedRem = 0 := by
  refine Res.Sat.bind (Q := fun _ t => t.storedRem = 0) ((frames_readBit s).weaken (fun _ _ ht => (ht.storedRem (by decide)).trans h)
    fun _ _ ht => (ht.storedRem (by decide)).trans h) fun bfinal t ht => ?_
  refine Res.Sat.bind (Q := fun _ u => u.storedRem = 0) ((frames_readBits 2 (t.setLast bfinal)).weaken
    (fun _ _ hu => (hu.storedRem (by decide)).trans ht) fun _ _ hu => (hu.storedRem (by decide)).trans ht) fun btype u hu => ?_
  exact blockElem_engine bfinal btype hu

/-- The engine is in a Huffman block. -/
abbrev InHuffman (s : State) : Prop := s.eng = .fixedHuffman ∨ s.eng = .dynamicHuffman

theorem Live.no_copy (h : Live s) (heng : ¬ InHuffman s) : s.pendLen = 0 := Nat.eq_zero_of_not_pos fun hpos => heng (h.pend hpos)

theorem Live.no_rem (h : Live s) (heng : s.eng ≠ .stored) : s.storedRem = 0 := Decidable.byContradiction fun hne => heng (h.rem hne)

/-- Between two blocks no copy is outstanding and no stored byte left. -/
theorem Live.between_blocks (h : Live s) (heng : s.eng = .blockFree ∨ s.eng = .lastBlockFree) : s.pendLen = 0 ∧ s.storedRem = 0 := by
  rcases heng with heng | heng <;> exact ⟨h.no_copy (by simp [heng]), h.no_rem (by simp [heng])⟩

theorem live_blockHeader (h : Live s) (heng : s.eng = .blockFree) :
    (blockHeader s).Sat False (fun _ t => Live t ∧ Decoding t.eng) fun _ t => Live t := by
  obtain ⟨hpend, hrem⟩ := h.between_blocks (.inl heng)
  have hengine := blockHeader_engine hrem
  have hlive := live_of_facts h hpend (completes_blockHeader s) (frames_blockHeader s) (by decide) keeps_blockHeader
    (fun hP => hP.keeps_blockHeader) (hengine.weaken (fun _ _ ht => ht.2) fun _ _ => remOk_of_zero)
  exact (hlive.with hengine).weaken (fun _ _ ht => ⟨ht.1.1, ht.2.1⟩) fun _ _ ht => ht.1

/-- The stored byte's eight bits pay for the byte put out (47_host_commands R460). -/
theorem live_storedByte (h : Live s) (heng : s.eng = .stored) (hrem : s.storedRem ≠ 0) :
    (storedByte s).Sat False (fun _ t => Live t ∧ t.eng = .stored) fun _ t => Live t := by
  refine Res.Sat.bind (live_readByte h) ?_
  rintro b t ⟨hreads, hlive, hpos, -⟩
  have htrem : t.storedRem ≠ 0 := by rw [hreads.same]; exact hrem
  have hteng : t.eng = .stored := by rw [hreads.same]; exact heng
  have hslack : Slack 1 t := Slack.reads (k := 0) (j := 1) h.budget hreads (by omega)
  rw [elemStoredByte, if_neg htrem]
  refine Res.Sat.bind (Q := fun _ u => Live u ∧ u.eng = .stored) (Res.Sat.bind ((live_putAndEmit hlive hslack b).weaken (fun _ _ hu => hu)
    fun _ _ hu => hu.elim) ?_) fun _ _ hu => hu
  rintro _ u ⟨rfl, hu⟩
  exact ⟨⟨⟨hu.core.cursor, hu.core.window, hu.core.litlen, hu.core.dist, hu.core.copy, hu.core.scratch, hu.core.registers⟩, hu.log, hu.held,
    hu.pend, fun _ => hteng, hu.budget⟩, hteng⟩

/-! ## Symbols -/

/-- The engine has not yet gone past the payload. -/
abbrev InPayload (g : Eng) : Prop := Decoding g ∨ g = .lastBlockFree

theorem InHuffman.decoding (h : InHuffman s) : Decoding s.eng := .inr (.inr h)

theorem Live.blockEnd (h : Live s) (hpend : s.pendLen = 0) (hrem : s.storedRem = 0) : Live s.blockEnd ∧ InPayload s.blockEnd.eng := by
  refine ⟨⟨core_blockEnd h.core, h.log, h.held, fun hpos => absurd hpend (Nat.ne_of_gt hpos), remOk_of_zero hrem, h.budget⟩, ?_⟩
  show InPayload (if s.last then .lastBlockFree else .blockFree)
  split
  · exact .inr rfl
  · exact .inl (.inl rfl)

theorem live_litlenElem (sym : Nat) (h : Live s) (hslack : Slack 1 s) (hpend : s.pendLen = 0) (heng : InHuffman s) :
    (litlenElem sym s).Sat False (fun r t => Live t ∧ (r = none ∨ Decoding t.eng) ∧ InPayload t.eng) fun _ t => Live t := by
  have hrem : s.storedRem = 0 := h.no_rem (by rcases heng with hh | hh <;> simp [hh])
  unfold litlenElem
  split
  · refine Res.Sat.bind ((live_putAndEmit h hslack _).weaken (fun _ _ ht => ht) fun _ _ ht => ht.elim) ?_
    rintro _ t ⟨rfl, ht⟩
    exact ⟨ht, .inr (InHuffman.decoding heng), .inl (InHuffman.decoding heng)⟩
  split
  · obtain ⟨hlive, hpayload⟩ := h.blockEnd hpend hrem
    exact ⟨hlive, .inl rfl, hpayload⟩
  split
  · next elem helem =>
    refine Res.Sat.bind (live_lenElem (List.mem_of_getElem? helem) h hslack hpend heng) ?_
    rintro _ t ⟨ht, -, hteng, -⟩
    have hdecoding : Decoding t.eng := hteng ▸ InHuffman.decoding heng
    exact ⟨ht, .inl rfl, .inl hdecoding⟩
  · exact h

theorem live_huffStep (h : Live s) (heng : InHuffman s) :
    (huffStep s).Sat False (fun r t => Live t ∧ (r = none ∨ Decoding t.eng) ∧ InPayload t.eng) fun _ t => Live t := by
  unfold huffStep
  split
  · next hpend =>
    refine Res.Sat.bind ((live_copyStep h hpend).weaken (fun _ _ ht => ht) fun _ _ ht => ht ▸ h) ?_
    rintro b t ⟨ht, -, hteng⟩
    have hdecoding : Decoding t.eng := hteng ▸ InHuffman.decoding heng
    exact ⟨ht, .inr hdecoding, .inl hdecoding⟩
  · next hpend =>
    obtain ⟨tab, htab⟩ := builds_ll h.core
    rw [decodeLitlen, withTable_ok htab]
    refine Res.Sat.bind (live_resolve tab h) ?_
    rintro sym t ⟨-, hreads, ht, hpos⟩
    refine live_litlenElem sym ht (Slack.reads (k := 0) h.budget hreads hpos) ?_ ?_
    · rw [hreads.same]
      exact Nat.eq_zero_of_not_pos hpend
    · rw [hreads.same]
      exact heng

/-! ## Passes -/

theorem live_producePass (h : Live s) (heng : InPayload s.eng) :
    (producePass s).Sat False (fun r t => Live t ∧ ((∃ b, r = some (some b)) → Decoding t.eng) ∧ (r = some none → t.eng = .lastBlockFree)
      ∧ InPayload t.eng) fun _ t => Live t := by
  have hhuffman (hh : InHuffman s) : (producePass s).Sat False (fun r t => Live t ∧ ((∃ b, r = some (some b)) → Decoding t.eng)
      ∧ (r = some none → t.eng = .lastBlockFree) ∧ InPayload t.eng) fun _ t => Live t := by
    rw [producePass_huffman hh]
    refine Res.Sat.bind (live_huffStep h hh) ?_
    rintro r t ⟨ht, hbyte, hpayload⟩
    cases r with
    | some b => exact ⟨ht, fun _ => hbyte.resolve_left nofun, nofun, hpayload⟩
    | none => exact ⟨ht, nofun, nofun, hpayload⟩
  rcases heng with (hblock | hstored | hfixed | hdynamic) | hlast
  · simp only [producePass, hblock]
    refine Res.Sat.bind (live_blockHeader h hblock) ?_
    rintro _ t ⟨ht, hdecoding⟩
    exact ⟨ht, nofun, nofun, .inl hdecoding⟩
  · by_cases hrem : s.storedRem = 0
    · obtain ⟨hlive, hpayload⟩ := h.blockEnd (h.no_copy (by simp [hstored])) hrem
      rw [producePass_stored_end hstored hrem]
      exact ⟨hlive, nofun, nofun, hpayload⟩
    · rw [producePass_stored hstored hrem]
      refine Res.Sat.bind (live_storedByte h hstored hrem) ?_
      rintro b t ⟨ht, hteng⟩
      have hdecoding : Decoding t.eng := .inr (.inl hteng)
      exact ⟨ht, fun _ => hdecoding, nofun, .inl hdecoding⟩
  · exact hhuffman (.inl hfixed)
  · exact hhuffman (.inr hdynamic)
  · simp only [producePass, hlast]
    exact ⟨h, nofun, fun _ => hlast, .inr hlast⟩

/-- Where `Produce` leaves the engine: in a block or between two after a byte, past the last block at the end of the payload. -/
def ProduceLeaves (r : Option Byte) (t : State) : Prop :=
  match r with
  | some _ => Decoding t.eng
  | none => t.eng = .lastBlockFree

theorem live_produce {n : Nat} (h : Live s) (heng : InPayload s.eng) (hn : s.passWeight < n) :
    (produce n s).Sat False (fun r t => Live t ∧ ProduceLeaves r t) fun _ t => Live t := by
  induction n generalizing s with
  | zero => exact absurd hn (Nat.not_lt_zero _)
  | succ n ih =>
    refine Res.Sat.bind (((live_producePass h heng).with (producePass_weight s)).weaken (fun _ _ ht => ht) fun _ _ ht => ht.1) ?_
    rintro r t ⟨⟨ht, hbyte, hend, hpayload⟩, hweight⟩
    cases r with
    | some x =>
      cases x with
      | some b => exact ⟨ht, hbyte ⟨b, rfl⟩⟩
      | none => exact ⟨ht, hend rfl⟩
    | none =>
      have := hweight rfl
      exact ih ht hpayload (by omega)

end Sys2Proof.Machine
end


section
/-! The session a host drives (47_host_commands R443 to R460): READ from beginning to end, what the other commands keep, and the statements about
every host step. -/

namespace Sys2Proof.Machine

open Sys2Proof

variable {s t : State} {i : Instr}

/-! ## The frame around the payload -/

theorem Live.setPhase (h : Live s) (p : Phase) : Live { s with phase := p } :=
  ⟨core_phase h.core p, h.log, h.held, h.pend, h.rem, h.budget⟩

theorem Live.latch (h : Live s) (e : StreamError) : Live (s.latch e) :=
  ⟨h.core.latch e, h.log, h.held, h.pend, h.rem, h.budget⟩

theorem Live.respond (h : Live s) {r : Resp} (hr : ∀ c, r ≠ .error c) : Live (s.respond r) :=
  ⟨core_respond h.core fun c hc => absurd hc (hr c), h.log, h.held, h.pend, h.rem, h.budget⟩

/-- A window is the end of an output of no bytes when it is empty. -/
theorem logOk_of_empty (hout : s.out = []) (hwptr : s.win.wptr = 0) (hfilled : s.win.filled = 0) : LogOk s := by
  refine ⟨by rw [hout, hfilled]; rfl, by rw [hout, hwptr]; rfl, fun d hd hle => ?_⟩
  omega

theorem live_elemZlibHdr (hd : BitVec 16) (h : Live s) (hout : s.out = []) :
    (elemZlibHdr hd s).Sat False (fun _ t => Live t ∧ t.eng = s.eng) fun _ t => Live t := by
  have hcore := keeps_zlibHdr hd h.core
  unfold elemZlibHdr at hcore ⊢
  split
  · next hok =>
    rw [if_pos hok] at hcore
    exact ⟨⟨hcore, logOk_of_empty hout rfl rfl, rfl, h.pend, h.rem, h.budget⟩, rfl⟩
  · exact h

theorem live_zlibHeader (h : Live s) (hout : s.out = []) :
    (zlibHeader s).Sat False (fun _ t => Live t ∧ t.eng = s.eng) fun _ t => Live t := by
  refine Res.Sat.bind (live_readByte h) ?_
  rintro cmf u ⟨hu, hlive, -⟩
  refine Res.Sat.bind (live_readByte hlive) ?_
  rintro flg v ⟨hv, hlive', -⟩
  have hvs := (hu.trans hv).same
  refine (live_elemZlibHdr _ hlive' (by rw [hvs]; exact hout)).weaken (fun _ _ ht => ⟨ht.1, ht.2.trans ?_⟩) fun _ _ ht => ht
  rw [hvs]

theorem live_gzipHeader (h : Live s) (heng : s.eng = .blockFree) :
    (gzipHeader s).Sat False (fun _ t => Live t ∧ t.eng = s.eng) fun _ t => Live t := by
  obtain ⟨hpend, hrem⟩ := h.between_blocks (.inl heng)
  have hframe := frames_gzipHeader s
  have hcore : CoreOk s → Keeps CoreOk (gzipHeader s) := fun hc => Keeps.bind (keeps_checkedByte 0 hc) fun _ _ h1 =>
    Keeps.bind (keeps_checkedByte 1 h1) fun _ _ h2 => Keeps.bind (keeps_checkedByte 2 h2) fun _ _ h3 =>
      Keeps.bind (keeps_checkedByte 3 h3) fun _ _ h4 => keeps_gzipHdr _ h4
  have hlive := live_of_facts h hpend (completes_gzipHeader s) hframe (by decide) hcore (fun hP => hP.keeps_headerOf .gzip)
    (hframe.weaken (fun _ _ ht => remOk_of_zero ((ht.storedRem (by decide)).trans hrem))
      fun _ _ ht => remOk_of_zero ((ht.storedRem (by decide)).trans hrem))
  exact (hlive.with hframe).weaken (fun _ _ ht => ⟨ht.1.1, ht.2 .eng (by decide)⟩) fun _ _ ht => ht.1

theorem live_readHeader (h : Live s) (hheader : s.phase = .header → s.eng = .blockFree ∧ s.out = []) (hbody : s.phase = .body → Decoding s.eng)
    (hopen : s.phase = .header ∨ s.phase = .body) :
    (readHeader s).Sat False (fun _ t => Live t ∧ Decoding t.eng ∧ t.phase = .body) fun _ t => Live t := by
  unfold readHeader
  split
  · next hphase =>
    obtain ⟨heng, hout⟩ := hheader hphase
    have hheaderOf : (headerOf s.frame s).Sat False (fun _ t => Live t ∧ t.eng = s.eng) fun _ t => Live t := by
      cases s.frame
      · exact ⟨h, rfl⟩
      · exact live_zlibHeader h hout
      · exact live_gzipHeader h heng
    refine Res.Sat.bind hheaderOf ?_
    rintro _ t ⟨ht, hteng⟩
    exact ⟨ht.setPhase .body, .inl (hteng.trans heng), rfl⟩
  · next hphase =>
    have hp := hopen.resolve_left hphase
    exact ⟨h, hbody hp, hp⟩

/-- The engine after the end of the data (46_frame_parser R423, R424). -/
abbrev Ended (g : Eng) : Prop := g = .lastBlockFree ∨ g = .trailingBits ∨ g = .trailingBytes

theorem frameEnd_engine (heng : s.eng = .lastBlockFree) : (frameEnd s).Sat True (fun _ t => Ended t.eng) fun _ _ => True := by
  refine Res.Sat.bind (Q := fun _ t => Ended t.eng) ?_ fun _ _ ht => ht
  cases s.frame
  · exact .inl heng
  · refine Res.Sat.bind ((frames_readBytes 4 s.enterTrailer).weaken (fun _ _ ht => ht .eng (by decide)) fun _ _ _ => trivial) fun bs t ht => ?_
    exact (frames_zlibTrl _ t).weaken (fun _ _ hu => .inr (.inr (Eq.trans (hu .eng (by decide)) ht))) fun _ _ _ => trivial
  · refine Res.Sat.bind ((frames_readBytes 8 s.enterTrailer).weaken (fun _ _ ht => ht .eng (by decide)) fun _ _ _ => trivial) fun bs t ht => ?_
    exact (frames_gzipTrl _ _ t).weaken (fun _ _ hu => .inr (.inr (Eq.trans (hu .eng (by decide)) ht))) fun _ _ _ => trivial

theorem live_frameEnd (h : Live s) (heng : s.eng = .lastBlockFree) :
    (frameEnd s).Sat False (fun _ t => Live t ∧ t.phase = .done ∧ Ended t.eng) fun _ t => Live t := by
  obtain ⟨hpend, hrem⟩ := h.between_blocks (.inr heng)
  have hframe := frames_frameEnd s
  have hlive := live_of_facts h hpend (completes_frameEnd s) hframe (by decide) keeps_frameEnd (fun hP => hP.keeps_frameEnd)
    (hframe.weaken (fun _ _ ht => remOk_of_zero ((ht.storedRem (by decide)).trans hrem))
      fun _ _ ht => remOk_of_zero ((ht.storedRem (by decide)).trans hrem))
  exact (hlive.with ((frameEnd_phase s).and (frameEnd_engine heng))).weaken (fun _ _ ht => ⟨ht.1.1, ht.2⟩) fun _ _ ht => ht.1

/-! ## READ -/

/-- Where READ leaves an open session: in Body in a block or between two, or in Done past the payload. -/
abbrev ReadLeaves (t : State) : Prop := (t.phase = .body ∧ Decoding t.eng) ∨ (t.phase = .done ∧ Ended t.eng)

theorem live_readEnd (r : Option Byte) (h : Live s) (hphase : s.phase = .body) (heng : ProduceLeaves r s) :
    (readEnd r s).Sat False (fun _ t => Live t ∧ ReadLeaves t) fun _ t => Live t := by
  cases r with
  | some b => exact ⟨h.respond nofun, .inl ⟨hphase, heng⟩⟩
  | none =>
    refine Res.Sat.bind (live_frameEnd h heng) ?_
    rintro _ t ⟨ht, hdone, hended⟩
    exact ⟨ht.respond nofun, .inr ⟨hdone, hended⟩⟩

theorem live_readBody (h : Live s) (hheader : s.phase = .header → s.eng = .blockFree ∧ s.out = []) (hbody : s.phase = .body → Decoding s.eng)
    (hopen : s.phase = .header ∨ s.phase = .body) :
    (readBody s).Sat False (fun _ t => Live t ∧ ReadLeaves t) fun _ t => Live t := by
  refine Res.Sat.bind (live_readHeader h hheader hbody hopen) ?_
  rintro _ t ⟨ht, hdecoding, hphase⟩
  have hproduce := live_produce (n := t.produceBound) ht (.inl hdecoding) (Nat.lt_of_succ_lt (passWeight_lt_produceBound t))
  refine Res.Sat.bind ((hproduce.with (frames_produce _ t)).weaken (fun _ _ hu => hu) fun _ _ hu => hu.1) ?_
  rintro r u ⟨⟨hu, heng⟩, hframe⟩
  exact live_readEnd r hu (Eq.trans (hframe .phase (by decide)) hphase) heng

/-! ## From the session's invariant and back -/

theorem SessionInv.live (h : SessionInv s) (hidle : s.phase ≠ .idle) (hreleased : s.phase ≠ .released) : Live s := by
  obtain ⟨hinv, -, hlog, ⟨-, -, -, hpend, hrem⟩, hheld, hbudget⟩ := h
  exact ⟨((inv_iff s).1 hinv).1, hlog, hheld.2 ⟨hidle, hreleased⟩, hpend, hrem, hbudget⟩

theorem Live.sessionInv (h : Live s) (hinv : Inv s) (hqueue : s.queue.all Request.host = true)
    (hphase : (s.phase = .header ∧ s.eng = .blockFree ∧ s.out = [] ∧ s.bc = BitCursor.reset) ∨ ReadLeaves s ∨ s.phase = .failed) :
    SessionInv s := by
  have hne : s.phase ≠ .idle ∧ s.phase ≠ .released := by
    rcases hphase with ⟨hp, -⟩ | (⟨hp, -⟩ | ⟨hp, -⟩) | hp <;> rw [hp] <;> exact ⟨nofun, nofun⟩
  refine ⟨hinv, hqueue, h.log, ⟨fun hp => ?header, fun hp => ?body, fun hp => ?done, h.pend, h.rem⟩, ⟨fun _ => hne, fun _ => h.held⟩,
    h.budget⟩
  all_goals rcases hphase with ⟨hp', hstart⟩ | (⟨hp', heng⟩ | ⟨hp', heng⟩) | hp' <;> rw [hp] at hp'
  case header.inl => exact hstart
  case body.inr.inl.inl => exact heng
  case done.inr.inl.inr => exact heng
  all_goals cases hp'

theorem live_readBody_of_session (h : SessionInv s) (hopen : s.phase = .header ∨ s.phase = .body) :
    (readBody s).Sat False (fun _ t => Live t ∧ ReadLeaves t) fun _ t => Live t := by
  obtain ⟨hheader, hbody, -⟩ := h.2.2.2.1
  have hne : s.phase ≠ .idle ∧ s.phase ≠ .released := by
    rcases hopen with hp | hp <;> rw [hp] <;> exact ⟨nofun, nofun⟩
  exact live_readBody (h.live hne.1 hne.2) (fun hp => ⟨(hheader hp).1, (hheader hp).2.1⟩) hbody hopen

/-- Settles O14: READ does not stop, its answers are three, and only raising latches. -/
theorem readAlwaysCompletes : Obligations.ReadAlwaysCompletes := by
  intro s arg h hopen
  rw [exec_read_open arg hopen]
  refine Res.Sat.finish_exists (((live_readBody_of_session h hopen).with ((readBody_answers hopen).and (frames_readBody s))).weaken ?_ ?_)
  · rintro _ t ⟨-, hanswer, hframe⟩
    have herr : t.err = s.err := hframe .err (by decide)
    rcases hanswer with ⟨b, hresp, hout, hphase⟩ | ⟨hresp, hout, hphase⟩
    · exact .inl ⟨b, hresp, hout, hphase, herr⟩
    · exact .inr (.inl ⟨hresp, hout, hphase, herr⟩)
  · rintro e t ⟨-, ⟨hout, -⟩, -⟩
    exact .inr (.inr ⟨e, rfl, hout, rfl, rfl⟩)

/-! ## The other commands -/

theorem queue_not_written (i : Instr) : Field.queue ∉ writes i := by
  cases i <;> exact of_decide_eq_true rfl

/-- After the end of the data no copy is outstanding and no stored byte left. -/
theorem Live.after_end (h : Live s) (heng : Ended s.eng) : s.pendLen = 0 ∧ s.storedRem = 0 := by
  rcases heng with heng | heng | heng <;> exact ⟨h.no_copy (by simp [heng]), h.no_rem (by simp [heng])⟩

theorem Live.setEng (h : Live s) (heng : Ended s.eng) (g : Eng) : Live { s with eng := g } := by
  obtain ⟨hpend, hrem⟩ := h.after_end heng
  exact ⟨core_eng h.core g, h.log, h.held, fun hpos => absurd hpend (Nat.ne_of_gt hpos), remOk_of_zero hrem, h.budget⟩

theorem SessionInv.live_of_done (h : SessionInv s) (hdone : s.phase = .done) : Live s :=
  h.live (by rw [hdone]; nofun) (by rw [hdone]; nofun)

theorem live_openSession (h : CoreOk s) : Live s.openSession :=
  ⟨core_openSession h, logOk_of_empty rfl rfl rfl, rfl, fun hpos => absurd hpos (Nat.lt_irrefl 0), remOk_of_zero rfl, Nat.zero_le _⟩

theorem openSession_leaves (s : State) :
    (s.openSession.phase = .header ∧ s.openSession.eng = .blockFree ∧ s.openSession.out = [] ∧ s.openSession.bc = BitCursor.reset)
      ∨ ReadLeaves s.openSession ∨ s.openSession.phase = .failed := by
  by_cases hraw : s.cfgFrame = .raw
  · exact .inr (.inl (.inl ⟨if_pos hraw, .inl rfl⟩))
  · exact .inl ⟨if_neg hraw, rfl, rfl, rfl⟩

/-- A response alone, or the end of a session, changes no other part of the invariant. -/
theorem SessionInv.release {r : Resp} (h : SessionInv s) (hinv : Inv (s.releaseWindow.endSession.respond r)) :
    SessionInv (s.releaseWindow.endSession.respond r) := by
  obtain ⟨-, hqueue, hlog, ⟨-, -, -, hpend, hrem⟩, -, hbudget⟩ := h
  have hphase : (s.releaseWindow.endSession.respond r).phase = .idle ∨ (s.releaseWindow.endSession.respond r).phase = .released := by
    by_cases hidle : s.phase = .idle
    · exact .inl (if_pos hidle)
    · exact .inr (if_neg hidle)
  refine ⟨hinv, hqueue, hlog, ⟨fun hp => ?_, fun hp => ?_, fun hp => ?_, hpend, hrem⟩, ⟨nofun, fun hne => ?_⟩, hbudget⟩
  case refine_4 => exact absurd hphase (not_or.2 hne)
  all_goals rcases hphase with hp' | hp' <;> exact absurd (hp.symm.trans hp') nofun

/-- The ends of the operations that leave a live state. -/
theorem sessionInv_of_finish {r : Res Unit} (hlive : r.Sat True (fun _ t => Live t ∧ ReadLeaves t) fun _ t => Live t) (hinv : Inv t)
    (hqueue : t.queue.all Request.host = true) (ht : r.finish = .next t) : SessionInv t := by
  have hleaves := Res.Sat.finish (P := fun t => Live t ∧ (ReadLeaves t ∨ t.phase = .failed))
    (hlive.weaken (fun _ _ hu => ⟨hu.1, .inl hu.2⟩) fun e _ hu => ⟨hu.latch e, .inr rfl⟩) ht
  exact hleaves.1.sessionInv hinv hqueue (.inr hleaves.2)

theorem exec_keeps_sessionInv (hi : (encode i).fmt = .hostCmd) (h : SessionInv s) (ht : exec i s = .next t) : SessionInv t := by
  have hinv : Inv t := exec_keeps_inv h.1 ht
  have hqueue : t.queue.all Request.host = true := by
    rw [show t.queue = s.queue from exec_agree ht .queue (queue_not_written i)]
    exact h.2.1
  have hrun := exec_commandRuns hi s
  rw [ht] at hrun
  generalize hx : (Host.Outcome.next t : StepResult) = x at hrun
  cases hrun with
  | answers _ r =>
    cases hx
    exact ⟨hinv, h.2⟩
  | start _ _ =>
    cases hx
    exact ((live_openSession ((inv_iff s).1 h.1).1).respond (r := .ok) nofun).sessionInv hinv hqueue (openSession_leaves s)
  | read _ hopen => exact sessionInv_of_finish (Sat.mono_stop (live_readBody_of_session h hopen)) hinv hqueue hx.symm
  | enterTrailingBits _ hlegal =>
    cases hx
    obtain ⟨hdone, heng⟩ := canEnterTrailing_iff.1 hlegal
    exact (((h.live_of_done hdone).setEng heng _).respond (r := .ok) nofun).sessionInv hinv hqueue (.inr (.inl (.inr ⟨hdone, .inr (.inl rfl)⟩)))
  | enterTrailingBytes _ hlegal =>
    cases hx
    obtain ⟨hdone, heng⟩ := canEnterTrailing_iff.1 hlegal
    have halign := (h.live_of_done hdone).reads (Reads.align s)
    exact ((halign.setEng (s := s.align) heng _).respond (r := .ok) nofun).sessionInv hinv hqueue (.inr (.inl (.inr ⟨hdone, .inr (.inr rfl)⟩)))
  | readTrailBit _ hlegal =>
    obtain ⟨hdone, heng⟩ := inTrailingBits_iff.1 hlegal
    have hlive := h.live_of_done hdone
    refine sessionInv_of_finish (Res.Sat.bind (Sat.mono_stop ((readBit_reads s).weaken (fun _ _ hu => hu.1) fun _ _ hu => hu.2 ▸ hlive)) ?_)
      hinv hqueue hx.symm
    intro b u hu
    have hue : u.phase = s.phase ∧ u.eng = s.eng := by rw [hu.same]; exact ⟨rfl, rfl⟩
    exact ⟨(hlive.reads hu).respond nofun, .inr ⟨hue.1.trans hdone, .inr (.inl (hue.2.trans heng))⟩⟩
  | readTrailByte _ hlegal =>
    obtain ⟨hdone, heng⟩ := inTrailingBytes_iff.1 hlegal
    refine sessionInv_of_finish (Res.Sat.bind (Sat.mono_stop (live_readByte (h.live_of_done hdone))) ?_) hinv hqueue hx.symm
    rintro b u ⟨hu, hlive, -⟩
    have hue : u.phase = s.phase ∧ u.eng = s.eng := by rw [hu.same]; exact ⟨rfl, rfl⟩
    exact ⟨hlive.respond nofun, .inr ⟨hue.1.trans hdone, .inr (.inr (hue.2.trans heng))⟩⟩
  | release _ =>
    cases hx
    exact h.release hinv

/-- A command of an open session answers. -/
theorem exec_command_exists (hi : (encode i).fmt = .hostCmd) (h : SessionInv s) : ∃ t, exec i s = .next t := by
  have hfinish {r : Res Unit} (hr : Completes r) : ∃ t, r.finish = .next t := by
    obtain ⟨t, ht, -⟩ := Res.Sat.finish_exists (P := fun _ => True) hr
    exact ⟨t, ht⟩
  generalize hx : exec i s = x
  have hrun := exec_commandRuns hi s
  rw [hx] at hrun
  clear hx
  cases hrun with
  | answers _ r => exact ⟨_, rfl⟩
  | start _ _ => exact ⟨_, rfl⟩
  | read _ hopen => exact hfinish (live_readBody_of_session h hopen).completes
  | enterTrailingBits _ _ => exact ⟨_, rfl⟩
  | enterTrailingBytes _ _ => exact ⟨_, rfl⟩
  | readTrailBit _ _ => exact hfinish ((readBit_reads s).completes.bind fun _ _ => trivial)
  | readTrailByte _ _ => exact hfinish ((completes_readByte s).bind fun _ _ => trivial)
  | release _ => exact ⟨_, rfl⟩

/-! ## Host steps -/

/-- The two registers a write can change. -/
theorem writeReg_written (off : Nat) (v : Word) (s : State) :
    writeReg off v s = { s with cfgFrame := (writeReg off v s).cfgFrame, maxDistReg := (writeReg off v s).maxDistReg } := by
  unfold writeReg
  split
  · conv_lhs => rw [config_written]
    rw [config_written]
  · conv_lhs => rw [maxDist_written]
    rw [maxDist_written]
  · rfl

theorem sessionInv_writeReg (off : Nat) (v : Word) (h : SessionInv s) : SessionInv (writeReg off v s) := by
  have hinv := writeReg_keeps_inv off v h.1
  rw [writeReg_written] at hinv ⊢
  exact ⟨hinv, h.2⟩

theorem sessionInv_resetBlock (h : s.queue.all Request.host = true) : SessionInv s.resetBlock :=
  ⟨inv_resetBlock s, h, logOk_of_empty rfl rfl rfl, ⟨nofun, nofun, nofun, fun hpos => absurd hpos (Nat.lt_irrefl 0), fun hne => absurd rfl hne⟩,
    ⟨nofun, fun hne => absurd rfl hne.1⟩, Nat.zero_le _⟩

/-- Settles O10: reset is `resetBlock` of itself. -/
theorem resetSatisfiesInvariants : Obligations.ResetSatisfiesInvariants :=
  ⟨inv_resetBlock State.reset, sessionInv_resetBlock (s := State.reset) rfl⟩

theorem SessionInv.withQueue {r : Request} {rest : List Request} (h : SessionInv s) (hq : s.queue = r :: rest) :
    SessionInv (s.withQueue rest) ∧ r.host = true := by
  obtain ⟨hinv, hqueue, hrest⟩ := h
  rw [hq, List.all_cons, Bool.and_eq_true] at hqueue
  exact ⟨⟨hinv, hqueue.2, hrest⟩, hqueue.1⟩

/-- A host's word is a command. -/
theorem host_runs_command {r : Request} {w : InstrWord} (hr : r.host = true) (hruns : r.Runs w) (hd : decode w = .ok i) :
    (encode i).fmt = .hostCmd := by
  rw [encodeOfDecode w i hd]
  rcases hruns with rfl | ⟨v, -, rfl⟩
  · cases hr
  · rfl

/-- Settles O12: request by request. -/
theorem hostStepsKeepSessionInv : Obligations.HostStepsKeepSessionInv := by
  intro s t h hstep
  rcases step_cases hstep with rfl | ⟨r, rest, hq, hserve⟩
  · exact h
  obtain ⟨h, hhost⟩ := h.withQueue hq
  rcases serve_cases hserve with ⟨w, i, hruns, hd, hexec⟩ | ⟨off, v, -, rfl⟩ | ⟨off, -, rfl⟩ | ⟨bytes, -, rfl⟩ | ⟨-, rfl⟩
  · exact exec_keeps_sessionInv (host_runs_command hhost hruns hd) h hexec
  · exact sessionInv_writeReg off v h
  · exact h
  · exact h
  · exact sessionInv_resetBlock h.2.1

/-- Settles O13: a command answers, and so does every other request of the interface. -/
theorem hostStepsNeverStop : Obligations.HostStepsNeverStop := by
  intro s h hinterface
  cases hq : s.queue with
  | nil => exact ⟨s, by rw [step, hq]⟩
  | cons r rest =>
    obtain ⟨h, hhost⟩ := h.withQueue hq
    have hr := hinterface r (by rw [hq]; rfl)
    rw [step_of_queue hq]
    cases r with
    | write off size v =>
      obtain ⟨rfl, hoff⟩ := (wordAccess_iff off size).1 hr
      by_cases h0 : off = 0x00
      · subst h0
        have hruns : (Request.write 0x00 4 v).Runs (.plain .hostCmd v.toNat) := .inr ⟨v, rfl, rfl⟩
        rw [serve_word hruns, runWord_of_decode (decode_ctrl v)]
        exact exec_command_exists (host_runs_command hhost hruns (decode_ctrl v)) h
      · exact ⟨_, serve_write hoff h0 v _⟩
    | read off size =>
      obtain ⟨rfl, hoff⟩ := (wordAccess_iff off size).1 hr
      exact ⟨_, serve_read hoff _⟩
    | supply bytes => exact ⟨_, rfl⟩
    | reset => exact ⟨_, rfl⟩
    | instr w => cases hhost

/-- A cursor inside its source has consumed at most all its bits. -/
theorem bitpos_le_source (h : CursorOk s) : s.bitpos ≤ 8 * s.src.length := by
  obtain ⟨hnext, -⟩ := h
  unfold State.bitpos
  split <;> omega

/-- Settles O18: 129 bytes for each bit consumed, of the source's eight in a byte. -/
theorem outputIsBoundedByTheSource : Obligations.OutputIsBoundedByTheSource := by
  rintro s ⟨hinv, -, -, -, -, hbudget⟩
  have hpos := bitpos_le_source ((inv_iff s).1 hinv).1.cursor
  unfold BudgetOk at hbudget
  omega

end Sys2Proof.Machine
end


section
/-! The engine's passes as instructions (44_inflate_blocks R271, R284; 45_inflate_symbols R300). A block header reads BTYPE after `last` is
written, so its reads are compared with those of the state before the write; the rest is one table of elements beside one table of instructions. -/

namespace Sys2Proof.Machine

open Sys2Proof

variable {s t : State} {i : Instr}

theorem decodeField_of_decode {f : Format} {v : Nat} (hf : f ≠ .microOp) (h : decode (.plain f v) = .ok i) : decodeField f v = .ok i := by
  by_cases hv : v < 2 ^ f.width
  · rwa [decode_plain hf hv] at h
  · rw [decode, InstrWord.plain, if_pos (Nat.le_of_not_lt hv)] at h
    cases h

theorem bind_eq_ok {α β : Type} {r : Res α} {k : α → State → Res β} {b : β} (h : r.bind k = .ok b t) :
    ∃ a u, r = .ok a u ∧ k a u = .ok b t := by
  cases r with
  | ok a u => exact ⟨a, u, rfl, h⟩
  | raised e u => cases h
  | fault f => cases h
  | refused x => cases h

/-! ## Reads beside a write of `last` -/

theorem readBit_setLast {b : Bool} {a : Bool} (h : readBit s = .ok a t) : readBit (s.setLast b) = .ok a (t.setLast b) := by
  rcases readBit_cases s with ⟨hp, hr⟩ | ⟨c, hp, hc, hr⟩ | ⟨-, -, hr⟩ <;> rw [hr] at h <;> cases h
  · exact readBit_buffered (s := s.setLast b) hp
  · exact readBit_pull (s := s.setLast b) hp hc

theorem readBitsLoop_setLast {b : Bool} {n v : Nat} (h : readBitsLoop n s = .ok v t) :
    readBitsLoop n (s.setLast b) = .ok v (t.setLast b) := by
  induction n generalizing s v with
  | zero =>
    cases h
    rfl
  | succ n ih =>
    obtain ⟨a, u, hbit, hrest⟩ := bind_eq_ok h
    obtain ⟨w, u', hloop, hv⟩ := bind_eq_ok hrest
    cases hv
    rw [readBitsLoop, readBit_setLast hbit, bind_ok, ih hloop]
    rfl

theorem blockElem_setLast (b : Bool) (btype : Nat) (s : State) : blockElem b btype (s.setLast b) = blockElem b btype s := by
  unfold blockElem
  split <;> rfl

/-- The three header bits read as one field (44_inflate_blocks R271). -/
theorem blockHeader_of_bits {v : Nat} (h : readBits 3 s = .ok v t) :
    ∃ (bfinal : Bool) (btype : Nat), v = bfinal.toNat + 2 * btype ∧ btype < 4 ∧ blockHeader s = blockElem bfinal btype t := by
  rw [readBits_eq (by decide)] at h
  obtain ⟨bfinal, u, hbit, hrest⟩ := bind_eq_ok h
  obtain ⟨btype, u', hloop, hv⟩ := bind_eq_ok hrest
  have hlt := readBitsLoop_reads 2 u
  rw [hloop] at hlt
  cases hv
  refine ⟨bfinal, btype, rfl, hlt.2.2, ?_⟩
  rw [blockHeader, hbit, bind_ok, readBits_eq (by decide), readBitsLoop_setLast hloop, bind_ok, blockElem_setLast]

theorem exec_blkHdr (bfinal : Bool) {btype : Nat} (h : btype < 4) (s : State) :
    exec (decodeBlkHdr (bfinal.toNat + 2 * btype)) s = (blockElem bfinal btype s).finish := by
  have hcases : btype = 0 ∨ btype = 1 ∨ btype = 2 ∨ btype = 3 := by omega
  rcases hcases with rfl | rfl | rfl | rfl <;> cases bfinal <;> rfl

/-- A header whose source ends inside its three bits. -/
theorem blockHeader_short (h : s.upcoming.length < 3) :
    ∃ u, blockHeader s = .raised .unexpectedEndOfStream u ∧ u.upcoming = []
      ∧ u = { s with last := s.upcoming.head?.getD s.last, bc := u.bc } := by
  cases hs : s.upcoming with
  | nil => exact ⟨s, by rw [blockHeader, readBit_end hs]; rfl, hs, rfl⟩
  | cons b rest =>
    obtain ⟨u, hbit, hrest, hu, -⟩ := readBit_upcoming hs
    have hshort : (u.setLast b).upcoming.length < 2 := by
      show u.upcoming.length < 2
      rw [hrest]
      rw [hs] at h
      exact Nat.lt_of_succ_lt_succ h
    obtain ⟨v, hbits, hv, hend, -⟩ := readBits_end (by decide) hshort
    refine ⟨v, by rw [blockHeader, hbit, bind_ok, hbits]; rfl, hend, ?_⟩
    rw [hv.same, hu.same]
    rfl

/-! ## READ after a pass that is one element -/

/-- A pass that gives no byte and keeps the phase: READ goes on from what the element leaves, or the element has failed the session. -/
theorem exec_read_of_element {r : Res Unit} {F : List Field} (arg : BitVec 24) (hphase : s.phase = .body)
    (hpass : producePass s = r.bind fun _ u => .ok none u) (hframe : Frames F s r) (hF : Field.phase ∉ F) (ht : r.finish = .next t) :
    exec (.read arg) s = (if t.phase = .failed then .next t else exec (.read arg) t) := by
  rcases finish_next ht with rfl | ⟨e, u, rfl, rfl⟩
  · have htphase : t.phase = .body := Eq.trans (hframe .phase hF) hphase
    rw [if_neg (by rw [htphase]; nofun)]
    exact exec_read_of_pass arg hphase htphase hpass
  · rw [if_pos (latch_phase u e)]
    exact exec_read_of_raised arg hphase hpass

theorem producePass_blockFree (h : s.eng = .blockFree) : producePass s = (blockHeader s).bind fun _ t => .ok none t := by
  simp only [producePass, h]

/-! ## Symbols -/

theorem huffStep_of_symbol {sym : Nat} (hpend : s.pendLen = 0) (h : decodeLitlen s = .ok sym t) : huffStep s = litlenElem sym t := by
  rw [huffStep, if_neg (by omega), h]
  rfl

/-- The length instructions run the length elements, symbol by symbol. -/
theorem exec_lenInstr {k : Nat} (h : lenInstrs[k]? = some i) :
    ∃ elem, lenElems[k]? = some elem ∧ ∀ s, exec i s = (elem s).finish := by
  have hmap : lenInstrs.map exec = lenElems.map fun elem s => (elem s).finish := rfl
  have hget := congrArg (·[k]?) hmap
  simp only [List.getElem?_map, h, Option.map_some] at hget
  obtain ⟨elem, helem, hrun⟩ := Option.map_eq_some_iff.1 hget.symm
  exact ⟨elem, helem, fun s => (congrFun hrun s).symm⟩

/-- A symbol of 256 or more gives no byte: it is one element. -/
theorem litlenElem_of_ge {sym : Nat} (hsym : 256 ≤ sym) (hd : decodeLitlenSym sym = .ok i) (s : State) :
    ∃ (r : Res Unit) (F : List Field), litlenElem sym s = r.bind (fun _ t => .ok none t) ∧ exec i s = r.finish
      ∧ Frames F s r ∧ Field.phase ∉ F := by
  unfold decodeLitlenSym at hd
  unfold litlenElem
  rw [if_neg (by omega)] at hd ⊢
  by_cases heob : sym = 256
  · rw [if_pos heob] at hd ⊢
    cases hd
    exact ⟨elemEob s, [.eng], rfl, rfl, agree_blockEnd s, by decide⟩
  rw [if_neg heob] at hd ⊢
  by_cases hlen : sym < 286
  · rw [if_pos hlen] at hd
    cases hi : lenInstrs[sym - 257]? with
    | none => rw [hi] at hd; cases hd
    | some j =>
      rw [hi] at hd
      cases hd
      obtain ⟨elem, helem, hrun⟩ := exec_lenInstr hi
      rw [helem]
      exact ⟨elem s, _, rfl, hrun s, frames_lenElem (List.mem_of_getElem? helem) s, by decide⟩
  · rw [if_neg hlen] at hd
    have hnone : lenElems[sym - 257]? = none := List.getElem?_eq_none (by show 29 ≤ sym - 257; omega)
    rw [hnone]
    split at hd
    · cases hd
      exact ⟨elemLitlenInvalid (BitVec.ofNat 1 sym) s, [], rfl, rfl, Frames.raise _, by decide⟩
    · cases hd

theorem litlenElem_finish {sym : Nat} (hd : decodeLitlenSym sym = .ok i) (s : State) :
    ((litlenElem sym s).bind fun _ t => .ok () t).finish = exec i s := by
  by_cases hsym : 256 ≤ sym
  · obtain ⟨r, F, hr, hrun, -⟩ := litlenElem_of_ge hsym hd s
    rw [hr, hrun, bind_assoc]
    cases r <;> rfl
  · rw [decodeLitlenSym, if_pos (Nat.lt_of_not_le hsym)] at hd
    cases hd
    rw [litlenElem, if_pos (Nat.lt_of_not_le hsym), bind_assoc]
    show _ = (elemLit (BitVec.ofNat 8 sym) s).finish
    cases elemLit (BitVec.ofNat 8 sym) s <;> rfl

theorem distElem_finish (ds : Nat) (s : State) : (distElem ds s).finish = exec (decodeDistSym ds) s := by
  have hmap : distInstrs.map exec = distElems.map fun elem s => (elem s).finish := rfl
  have hget := congrArg (·[ds]?) hmap
  simp only [List.getElem?_map] at hget
  unfold distElem decodeDistSym
  cases hi : distInstrs[ds]? with
  | some j =>
    rw [hi] at hget
    obtain ⟨elem, helem, hrun⟩ := Option.map_eq_some_iff.1 hget.symm
    rw [helem]
    exact congrFun hrun s
  | none =>
    rw [hi] at hget
    rw [Option.map_eq_none_iff.1 hget.symm]
    rfl

theorem clElem_finish {sym : Nat} (hd : decodeClSym sym = .ok i) (s : State) : (clElem sym s).finish = exec i s := by
  unfold decodeClSym at hd
  unfold clElem
  split_ifs at hd ⊢ <;> cases hd <;> rfl

/-- Settles O5: each pass ends in the element its value decodes to. -/
theorem enginePassesRunTheInstructions : Obligations.EnginePassesRunTheInstructions := by
  refine ⟨fun s s1 v i hbits hd => ?header, fun s hlen => ?short, fun s s1 sym i hpend hsym hd => ?symbol, fun s ds i hd => ?distance,
    fun s sym i hd => ?codeLength⟩
  case header =>
    obtain ⟨bfinal, btype, rfl, hlt, hheader⟩ := blockHeader_of_bits hbits
    have hi : decodeBlkHdr (bfinal.toNat + 2 * btype) = i := Except.ok.inj (decodeField_of_decode (f := .blkHdr) nofun hd)
    have hrun : (blockHeader s).finish = exec i s1 := by rw [hheader, ← hi, exec_blkHdr bfinal hlt]
    exact ⟨hrun, fun arg t hphase heng ht => exec_read_of_element arg hphase (producePass_blockFree heng) (frames_blockHeader s) (by decide)
      (hrun.trans ht)⟩
  case short =>
    obtain ⟨u, hr, hend, hu⟩ := blockHeader_short hlen
    refine ⟨u.latch .unexpectedEndOfStream, by rw [hr]; rfl, hend, ?_, fun arg hphase heng => exec_read_of_raised arg hphase ?_⟩
    · conv_lhs => rw [hu]
      rfl
    · rw [producePass_blockFree heng, hr]
      rfl
  case symbol =>
    have hd' : decodeLitlenSym sym = .ok i := decodeField_of_decode (f := .litlenSym) nofun hd
    rw [huffStep_of_symbol hpend hsym]
    refine ⟨litlenElem_finish hd' s1, fun arg t hphase heng hge ht => ?_⟩
    obtain ⟨r, F, hr, hrun, hframe, hF⟩ := litlenElem_of_ge hge hd' s1
    have hreads : Frames [.bc] s (decodeLitlen s) := frames_withTable fun tab => frames_resolve tab s
    rw [hsym] at hreads
    refine exec_read_of_element (F := .bc :: F) (r := r) arg hphase ?_
      (Frames.after (hreads.mono (by simp)) (hframe.mono (by simp))) (by simpa using hF) (hrun ▸ ht)
    rw [producePass_huffman heng, huffStep_of_symbol hpend hsym, hr, bind_assoc]
    rfl
  case distance =>
    rw [distElem_finish, Except.ok.inj (decodeField_of_decode (f := .distSym) nofun hd)]
  case codeLength => exact clElem_finish (decodeField_of_decode (f := .clSym) nofun hd) s

end Sys2Proof.Machine
end


section
/-! READ in a Huffman block and at the end of a payload (45_inflate_symbols R301 to R303, 46_frame_parser R420 to R424). However a payload ends, READ
goes on as a READ in LastBlockFree with the bytes after the payload unread; from there the frame's end is the trailer's bytes. -/

namespace Sys2Proof.Machine

open Sys2Proof

variable {s t : State}

/-! ## A literal, the end of a block, and bits that are no symbol -/

theorem decodeLitlen_of_table {tab : CodeTable} (h : buildCodes s.llLengths = .ok tab) : decodeLitlen s = resolve tab s := withTable_ok h

theorem litlenElem_literal {sym : Nat} (h : sym < 256) (hacq : s.win.acq = true) :
    litlenElem sym s = .ok (some (BitVec.ofNat 8 sym)) ((s.putByte (BitVec.ofNat 8 sym)).emit (BitVec.ofNat 8 sym)) := by
  rw [litlenElem, if_pos h, elemLit, putAndEmit_held _ hacq]
  rfl

theorem litlenElem_endOfBlock (s : State) : litlenElem 256 s = .ok none s.blockEnd := rfl

theorem producePass_of_symbol {sym : Nat} (heng : InHuffman s) (hpend : s.pendLen = 0) (h : decodeLitlen s = .ok sym t) :
    producePass s = (litlenElem sym t).bind fun r u => .ok (r.map some) u := by
  rw [producePass_huffman heng, huffStep_of_symbol hpend h]

theorem producePass_of_no_symbol {e : StreamError} (heng : InHuffman s) (hpend : s.pendLen = 0) (h : decodeLitlen s = .raised e t) :
    producePass s = .raised e t := by
  rw [producePass_huffman heng, huffStep, if_neg (by omega), h]
  rfl

/-- The end-of-block code, consumed. -/
theorem exec_read_endOfBlock {tab : CodeTable} {rest : List Bool} (arg : BitVec 24) (hphase : s.phase = .body) (heng : InHuffman s)
    (hpend : s.pendLen = 0) (htab : buildCodes s.llLengths = .ok tab) (hd : tab.decode s.upcoming = .good 256 rest) :
    ∃ u, resolve tab s = .ok 256 u ∧ u.upcoming = rest
      ∧ u.blockEnd = { s with bc := u.bc, eng := if s.last then .lastBlockFree else .blockFree }
      ∧ exec (.read arg) s = exec (.read arg) u.blockEnd := by
  obtain ⟨u, hr, hrest, hu⟩ := resolve_upcoming hd
  have hblockEnd : u.blockEnd = { s with bc := u.bc, eng := if s.last then .lastBlockFree else .blockFree } := by
    rw [hu.same]
    rfl
  refine ⟨u, hr, hrest, hblockEnd, exec_read_of_pass arg hphase (by rw [hblockEnd]; exact hphase) ?_⟩
  rw [producePass_of_symbol heng hpend ((decodeLitlen_of_table htab).trans hr), litlenElem_endOfBlock]
  rfl

/-! ## Past the last block -/

theorem exec_read_pastLastBlock (arg : BitVec 24) (hphase : s.phase = .body) (heng : s.eng = .lastBlockFree) :
    exec (.read arg) s = ((frameEnd s).bind fun _ t => .ok () (t.respond .eod)).finish := by
  have hpass : producePass s = .ok (some none) s := by simp only [producePass, heng]
  rw [exec_read_body arg hphase, produce_of_byte hpass]
  rfl

theorem frameEnd_of_frame {f : Frame} (h : s.frame = f) :
    frameEnd s = (trailerOf f s).bind fun _ t => .ok () { t with phase := .done } := by
  rw [← h]
  rfl

theorem exec_read_pastLastBlock_raw (arg : BitVec 24) (hphase : s.phase = .body) (heng : s.eng = .lastBlockFree) (hframe : s.frame = .raw) :
    exec (.read arg) s = .next { s with phase := .done, resp := .eod } := by
  rw [exec_read_pastLastBlock arg hphase heng, frameEnd_of_frame hframe]
  rfl

/-- Settles O35: what the stream begins with decides the first pass. -/
theorem readHuffmanLiteralOrEnd : Obligations.ReadHuffmanLiteralOrEnd := by
  refine fun s arg tab sym rest hphase heng hpend htab => ⟨fun hd hsym hacq => ?literal, fun hd hsym => ?endOfBlock,
    fun hd hsym hlast hraw => ?endOfData, fun e hd => ?noSymbol⟩
  case literal =>
    obtain ⟨u, hr, hrest, hu⟩ := resolve_upcoming hd
    have hpass : producePass s = .ok (some (some (BitVec.ofNat 8 sym))) ((u.putByte (BitVec.ofNat 8 sym)).emit (BitVec.ofNat 8 sym)) := by
      rw [producePass_of_symbol heng hpend ((decodeLitlen_of_table htab).trans hr), litlenElem_literal hsym (by rw [hu.same]; exact hacq)]
      rfl
    refine ⟨_, exec_read_of_byte arg hphase hpass, hrest, ?_⟩
    rw [hu.same]
    rfl
  case endOfBlock =>
    subst hsym
    obtain ⟨u, -, hrest, hblockEnd, hread⟩ := exec_read_endOfBlock arg hphase heng hpend htab hd
    exact ⟨u.blockEnd, hrest, hblockEnd, hread⟩
  case endOfData =>
    subst hsym
    obtain ⟨u, -, hrest, hblockEnd, hread⟩ := exec_read_endOfBlock arg hphase heng hpend htab hd
    rw [hread, exec_read_pastLastBlock_raw arg (by rw [hblockEnd]; exact hphase) (by rw [hblockEnd]; exact if_pos hlast)
      (by rw [hblockEnd]; exact hraw)]
    refine ⟨_, rfl, hrest, ?_⟩
    rw [hblockEnd, if_pos hlast]
  case noSymbol =>
    have hfollows := follows_resolve tab s
    rw [hd] at hfollows
    obtain ⟨u, hr, hrest, hu⟩ := hfollows
    refine ⟨_, exec_read_of_raised arg hphase (producePass_of_no_symbol heng hpend ((decodeLitlen_of_table htab).trans hr)), hrest, ?_⟩
    rw [hu.same]
    rfl

/-! ## The bytes after a payload -/

theorem readBit_pos_pos {b : Bool} (h : readBit s = .ok b t) : 0 < t.bc.pos.val := by
  obtain ⟨hpos, -⟩ := readBit_pos h
  split at hpos <;> omega

/-- A symbol has at least one bit, so a decode ends inside a byte or at its end. -/
theorem resolveLoop_pos (codes : List Code) (n L c : Nat) (s : State) :
    (resolveLoop codes n L c s).Sat True (fun _ t => 0 < t.bc.pos.val) fun _ _ => True := by
  induction n generalizing L c s with
  | zero => trivial
  | succ n ih =>
    rw [resolveLoop]
    cases hr : readBit s with
    | ok b t =>
      rw [bind_ok]
      split
      · exact readBit_pos_pos hr
      · exact ih _ _ t
    | raised e t => trivial
    | fault f => trivial
    | refused x => trivial

theorem byteBits_injective {b c : Byte} (h : byteBits b = byteBits c) : b = c := by
  have hval := congrArg bitsValue h
  rw [bitsValue_byteBits, bitsValue_byteBits] at hval
  exact BitVec.eq_of_toNat_eq hval

theorem flatMap_byteBits_injective {bs cs : List Byte} (h : bs.flatMap byteBits = cs.flatMap byteBits) : bs = cs := by
  induction bs generalizing cs with
  | nil =>
    have hlen := congrArg List.length h
    rw [flatMap_byteBits_length, flatMap_byteBits_length] at hlen
    exact (List.length_eq_zero_iff.1 (by simpa using hlen.symm)).symm
  | cons b bs ih =>
    cases cs with
    | nil =>
      have hlen := congrArg List.length h
      rw [flatMap_byteBits_length, flatMap_byteBits_length] at hlen
      simp at hlen
    | cons c cs =>
      rw [List.flatMap_cons, List.flatMap_cons] at h
      obtain ⟨hhead, htail⟩ := List.append_inj h (by rw [byteBits_length, byteBits_length])
      rw [byteBits_injective hhead, ih htail]

/-- Fewer than eight bits of padding are the rest of the buffered byte (46_frame_parser R420). -/
theorem unread_of_padding {pad : List Bool} {bytes : List Byte} (hpos : 0 < s.bc.pos.val) (hpad : pad.length < 8)
    (h : s.upcoming = pad ++ bytes.flatMap byteBits) : s.unread = bytes := by
  have hlen := congrArg List.length h
  rw [upcoming_length, List.length_append, flatMap_byteBits_length] at hlen
  have hrest : ((byteBits s.bc.cur).drop s.bc.pos.val).length = pad.length := by
    rw [List.length_drop, byteBits_length]
    omega
  exact flatMap_byteBits_injective (List.append_inj h hrest).2

/-- Wherever a payload ends, READ goes on past the last block with the bytes after it unread. -/
theorem exec_read_payloadEnds {bytes : List Byte} (arg : BitVec 24) (hphase : s.phase = .body) (h : PayloadEnds s bytes) :
    ∃ u, exec (.read arg) s = exec (.read arg) u ∧ u = { s with bc := u.bc, eng := .lastBlockFree } ∧ u.unread = bytes
      ∧ (s.eng = .lastBlockFree ∨ s.eng = .stored → u.bc = s.bc) := by
  rcases h with ⟨heng, hbytes⟩ | ⟨heng, hrem, hlast, hbytes⟩ | ⟨heng, hpend, hlast, tab, pad, htab, hd, hpad⟩
  · exact ⟨s, rfl, by rw [← heng], hbytes, fun _ => rfl⟩
  · have hblockEnd : s.blockEnd = { s with eng := .lastBlockFree } := blockEnd_of_last hlast
    refine ⟨s.blockEnd, exec_read_of_pass arg hphase hphase (producePass_stored_end heng hrem), hblockEnd, hbytes, fun _ => rfl⟩
  · obtain ⟨u, hr, hrest, hblockEnd, hread⟩ := exec_read_endOfBlock arg hphase heng hpend htab hd
    have hpos := resolveLoop_pos tab.codes tab.maxLen 0 0 s
    rw [show resolveLoop tab.codes tab.maxLen 0 0 s = .ok 256 u from hr] at hpos
    rw [if_pos hlast] at hblockEnd
    refine ⟨u.blockEnd, hread, hblockEnd, unread_of_padding (s := u) hpos hpad hrest, fun hother => ?_⟩
    rcases heng with hh | hh <;> rw [hh] at hother <;> rcases hother with hother | hother <;> cases hother

/-! ## Trailers (46_frame_parser R421, R422) -/

theorem exec_read_of_trailer {f : Frame} (arg : BitVec 24) (hphase : s.phase = .body) (heng : s.eng = .lastBlockFree) (hframe : s.frame = f)
    (h : trailerOf f s = .ok () t) : exec (.read arg) s = .next { t with phase := .done, resp := .eod } := by
  rw [exec_read_pastLastBlock arg hphase heng, frameEnd_of_frame hframe, h]
  rfl

theorem exec_read_of_trailer_raised {f : Frame} {e : StreamError} (arg : BitVec 24) (hphase : s.phase = .body) (heng : s.eng = .lastBlockFree)
    (hframe : s.frame = f) (h : trailerOf f s = .raised e t) : exec (.read arg) s = .next (failedWith e t) := by
  rw [exec_read_pastLastBlock arg hphase heng, frameEnd_of_frame hframe, h]
  rfl

/-- Bytes read to `b`, with `more` left of the source. -/
theorem readBytes_unread {g more : List Byte} {b : Byte} (h : s.unread = g ++ b :: more) :
    readBytes (g.length + 1) s = .ok (g ++ [b]) (s.atCursor { cur := b, pos := 8, next := s.src.length - more.length }) := by
  have hread := (takes_readBytes (g ++ [b]) s).whole more (by rw [h, List.append_assoc, List.singleton_append])
  rw [List.length_append, List.length_singleton, afterBytes_concat] at hread
  have hlen := congrArg List.length h
  rw [List.length_drop, List.length_append, List.length_cons] at hlen
  rw [hread, show s.src.length - more.length = s.bc.next + (g.length + 1) by omega]

theorem toNat_append_byte {n : Nat} (x : BitVec n) (b : Byte) : (x ++ b).toNat = x.toNat * 256 + b.toNat := by
  rw [BitVec.toNat_append, ← Nat.shiftLeft_add_eq_or_of_lt b.isLt, Nat.shiftLeft_eq]

theorem ofNat_beValue_four (b0 b1 b2 b3 : Byte) : BitVec.ofNat 32 (beValue 0 [b0, b1, b2, b3]) = b0 ++ b1 ++ b2 ++ b3 := by
  have h0 := b0.isLt
  have h1 := b1.isLt
  have h2 := b2.isLt
  have h3 := b3.isLt
  apply BitVec.eq_of_toNat_eq
  rw [toNat_append_byte, toNat_append_byte, toNat_append_byte, BitVec.toNat_ofNat]
  simp only [beValue]
  omega

theorem ofNat_leValue_four (b0 b1 b2 b3 : Byte) : BitVec.ofNat 32 (leValue [b0, b1, b2, b3]) = b3 ++ b2 ++ b1 ++ b0 := by
  rw [← ofNat_beValue_four]
  congr 1
  simp only [leValue, beValue]
  omega

theorem zlibTrailer_bytes {b0 b1 b2 b3 : Byte} {more : List Byte} (h : s.unread = b0 :: b1 :: b2 :: b3 :: more) :
    zlibTrailer s = elemZlibTrl (b0 ++ b1 ++ b2 ++ b3) (s.atCursor { cur := b3, pos := 8, next := s.src.length - more.length }) := by
  have hread : readBytes 4 s = _ := readBytes_unread (g := [b0, b1, b2]) h
  rw [zlibTrailer, hread, bind_ok, ← ofNat_beValue_four]
  rfl

theorem gzipTrailer_bytes {b0 b1 b2 b3 b4 b5 b6 b7 : Byte} {more : List Byte}
    (h : s.unread = b0 :: b1 :: b2 :: b3 :: b4 :: b5 :: b6 :: b7 :: more) :
    gzipTrailer s = elemGzipTrl (b3 ++ b2 ++ b1 ++ b0) (b7 ++ b6 ++ b5 ++ b4)
      (s.atCursor { cur := b7, pos := 8, next := s.src.length - more.length }) := by
  have hread : readBytes 8 s = _ := readBytes_unread (g := [b0, b1, b2, b3, b4, b5, b6]) h
  rw [gzipTrailer, hread, bind_ok, ← ofNat_leValue_four, ← ofNat_leValue_four]
  rfl

/-- A source that ends among `n` bytes. -/
theorem readBytes_unread_short {n : Nat} (h : s.unread.length < n) :
    ∃ u, readBytes n s = .raised .unexpectedEndOfStream u ∧ u = s.atCursor u.bc ∧ u.bc.pos = 8 ∧ u.upcoming = [] := by
  have hlen : (s.unread ++ List.replicate (n - s.unread.length) 0).length = n := by
    rw [List.length_append, List.length_replicate]
    omega
  have htakes := takes_readBytes (s.unread ++ List.replicate (n - s.unread.length) 0) s
  rw [hlen] at htakes
  refine htakes.fails_at_end rfl (List.prefix_append ..) fun heq => ?_
  rw [← heq] at hlen
  omega

/-- A trailer whose bytes the source does not hold. -/
theorem trailerOf_short (h : (s.frame = .zlib ∧ s.unread.length < 4) ∨ (s.frame = .gzip ∧ s.unread.length < 8)) :
    ∃ u, trailerOf s.frame s = .raised .unexpectedEndOfStream u ∧ u = s.enterTrailer.atCursor u.bc ∧ u.bc.pos = 8 ∧ u.upcoming = [] := by
  rcases h with ⟨hframe, hlen⟩ | ⟨hframe, hlen⟩
  · obtain ⟨u, hr, hu⟩ := readBytes_unread_short (s := s.enterTrailer) hlen
    exact ⟨u, by rw [hframe, trailerOf, zlibTrailer, hr]; rfl, hu⟩
  · obtain ⟨u, hr, hu⟩ := readBytes_unread_short (s := s.enterTrailer) hlen
    exact ⟨u, by rw [hframe, trailerOf, gzipTrailer, hr]; rfl, hu⟩

/-- Settles O36: the three ends of a payload are one state, and its frame is then read to the end. -/
theorem readValidatesTheTrailer : Obligations.ReadValidatesTheTrailer := by
  intro s arg bytes hphase hends
  obtain ⟨u, hread, hu, hbytes, hkept⟩ := exec_read_payloadEnds arg hphase hends
  have huphase : u.phase = .body := by rw [hu]; exact hphase
  have hueng : u.eng = .lastBlockFree := by rw [hu]
  have huframe : u.frame = s.frame := by rw [hu]
  rw [hread]
  refine ⟨fun hframe => ?raw, fun b0 b1 b2 b3 more hframe hb => ⟨fun hmatch => ?zlibGood, fun hmatch => ?zlibBad⟩,
    fun b0 b1 b2 b3 b4 b5 b6 b7 more hframe hb => ⟨fun hmatch => ?gzipGood, fun hmatch => ?gzipBad⟩, fun hshort => ?short⟩
  case raw =>
    refine ⟨_, exec_read_pastLastBlock_raw arg huphase hueng (huframe.trans hframe), ?_, hbytes, hkept⟩
    rw [hu]
  case zlibGood =>
    have htrl : trailerOf .zlib u = _ := zlibTrailer_bytes (s := u.enterTrailer) (hbytes.trans hb)
    rw [elemZlibTrl_match (by rw [hu]; exact hmatch)] at htrl
    rw [exec_read_of_trailer arg huphase hueng (huframe.trans hframe) htrl, hu]
    rfl
  case zlibBad =>
    have htrl : trailerOf .zlib u = _ := zlibTrailer_bytes (s := u.enterTrailer) (hbytes.trans hb)
    rw [elemZlibTrl_mismatch (by rw [hu]; exact hmatch)] at htrl
    rw [exec_read_of_trailer_raised arg huphase hueng (huframe.trans hframe) htrl, hu]
    rfl
  case gzipGood =>
    have htrl : trailerOf .gzip u = _ := gzipTrailer_bytes (s := u.enterTrailer) (hbytes.trans hb)
    rw [elemGzipTrl_match (by rw [hu]; exact hmatch)] at htrl
    rw [exec_read_of_trailer arg huphase hueng (huframe.trans hframe) htrl, hu]
    rfl
  case gzipBad =>
    have htrl : trailerOf .gzip u = _ := gzipTrailer_bytes (s := u.enterTrailer) (hbytes.trans hb)
    rw [elemGzipTrl_mismatch (by rw [hu]; exact hmatch)] at htrl
    rw [exec_read_of_trailer_raised arg huphase hueng (huframe.trans hframe) htrl, hu]
    rfl
  case short =>
    obtain ⟨v, hr, hv, hpos, hend⟩ := trailerOf_short (s := u) (by rw [huframe, hbytes]; exact hshort)
    refine ⟨_, exec_read_of_trailer_raised arg huphase hueng rfl hr, ?_, hpos, hend⟩
    rw [hv, hu]
    rfl

end Sys2Proof.Machine
end
